-- ==== Sys2Proof/Word.lean ====
section
/-! DEFINITION. The word types of the WDR repack/ADPCM block: bytes of system memory and 64-bit register words
(00_scope.md R6, 10_state.md R23). -/

namespace Sys2Proof

/-- One byte of system memory, of a host transaction, or an 8-bit register field. -/
abbrev Byte := BitVec 8

/-- A 64-bit register word or system-memory address (00_scope.md R5: REG_W and ADDR_W are 64). -/
abbrev Word := BitVec 64

end Sys2Proof
end

