-- ==== Sys2Proof/Config.lean ====
section
/-! DEFINITION. What the platform fixes (the OPEN parameters of 00_scope.md R5) and the free values that the
spec calls draws (00_scope.md R8). None of the constants has a body: no proof can learn their values. -/

namespace Sys2Proof

/-- The `len` consecutive addresses from `base` on. Addresses are mathematical integers (20_memory.md R61),
so a span may reach past the end of memory. -/
structure Span where
  base : Nat
  len  : Nat
deriving DecidableEq, Repr, Inhabited

/-- The OPEN parameters of 00_scope.md R5, as plain data. -/
structure Platform where
  /-- REG_BASE, where the register window sits on the host bus (10_state.md R23). -/
  regBase : Word
  /-- DIAG_PERIOD less one, so that DIAG_PERIOD is at least 1 by construction (41_repack.md R134). -/
  diagPeriodPred : Nat
  /-- MEM_ADMIT: the addresses the platform answers at are those in these spans (20_memory.md R67). -/
  admitted : List Span
  /-- The memory where a read has a side effect (20_memory.md R66). -/
  readSideEffects : List Span
deriving DecidableEq, Repr, Inhabited

namespace Config

/-- The platform the block is reset on. Nothing constrains it. -/
opaque platform : Platform

/-- The n-th draw, where a 64-bit register word is drawn (70_reset_and_hazards.md R228) or register fields are after a
fault (60_exceptions.md R202). -/
opaque freeWord : Nat → Word

/-- The n-th draw, where a byte is drawn (20_memory.md R69, 70_reset_and_hazards.md R222). -/
opaque freeByte : Nat → Byte

end Config

end Sys2Proof
end

