-- ==== Sys2Proof/Syntax.lean ====
section
/-! DEFINITION. The instructions of the block: one constructor of `Instr` per row of spec/opcode_table.json,
and the names that the fields of their encodings stand for (30_encoding.md R81, R82). -/

namespace Sys2Proof

/-- One constructor per row of spec/opcode_table.json. -/
inductive Instr
  /-- MMIO_READ: the host reads the register at offset `8 * slot` (40_host_interface.md R100). -/
  | mmioRead (slot : BitVec 5)
  /-- MMIO_WRITE: the host writes `value` to it (40_host_interface.md R101). -/
  | mmioWrite (slot : BitVec 5) (value : Word)
  /-- REPACK, the whole command, its format left to FORMAT.FMT (41_repack.md R138). -/
  | repack
  /-- REPACK.P420: REPACK with FMT 0, or FMT 1 when `fullRange` (41_repack.md R130). -/
  | repackP420 (fullRange : Bool)
  /-- REPACK.P422: REPACK with FMT 2, or FMT 3 when `fullRange` (41_repack.md R131). -/
  | repackP422 (fullRange : Bool)
  /-- REPACK.NV_U: REPACK with FMT 4 (41_repack.md R132). -/
  | repackNvU
  /-- REPACK.NV_V: REPACK with FMT 5 (41_repack.md R133). -/
  | repackNvV
  /-- REPACK.OTHER: REPACK with `fmt`, 6 to 255 (41_repack.md R134). -/
  | repackOther (fmt : Byte)
  /-- ADPCM_DECODE (42_adpcm.md R163). -/
  | adpcmDecode
  /-- ADPCM_RESET (42_adpcm.md R166). -/
  | adpcmReset
  /-- ILLEGAL_OPCODE: a CMD write of `op`, 0x00 or 0x04 to 0xFF (40_host_interface.md R103). -/
  | illegalOpcode (op : Byte)
deriving DecidableEq, Repr

/-- The legal OPCODE values of 30_encoding.md R81. -/
inductive Opcode
  | repack | adpcmDecode | adpcmReset
deriving DecidableEq, Repr

/-- The classes of FORMAT.FMT (30_encoding.md R82). -/
inductive FmtClass
  | p420 | p422 | nvU | nvV | other
deriving DecidableEq, Repr

end Sys2Proof
end

