-- ==== Sys2Proof/WellFormed.lean ====
section
/-! DEFINITION. Which terms of `Instr` stand for an instruction: the operand ranges of spec/opcode_table.json
that the operand types do not already give. -/

namespace Sys2Proof

/-- REPACK.OTHER has FMT 6 to 255 and ILLEGAL_OPCODE has OPCODE 0x00 or 0x04 to 0xFF; every other operand is
legal at every value of its type. -/
def Instr.wellFormed : Instr → Bool
  | .mmioRead _ => true
  | .mmioWrite _ _ => true
  | .repack => true
  | .repackP420 _ => true
  | .repackP422 _ => true
  | .repackNvU => true
  | .repackNvV => true
  | .repackOther fmt => decide (6 ≤ fmt.toNat)
  | .adpcmDecode => true
  | .adpcmReset => true
  | .illegalOpcode op => decide (op.toNat = 0 ∨ 4 ≤ op.toNat)

end Sys2Proof
end

