-- ==== Sys2Proof/Decode.lean ====
section
/-! DEFINITION. Decoding and encoding, in the three formats of spec/opcode_table.json: HOSTBUS bytes
(30_encoding.md R91), the 64-bit CMD word (R80, R81), and the CMD word together with FORMAT.FMT (R82). -/

namespace Sys2Proof

/-- The bits of an instruction, in one of the table's three formats. -/
inductive Encoded
  /-- A host transaction: a header byte, and 8 data bytes for a write (30_encoding.md R91). -/
  | hostBus (bytes : List Byte)
  /-- The value written to CMD (30_encoding.md R80). -/
  | cmd (word : Word)
  /-- The value written to CMD, and FORMAT.FMT (30_encoding.md R82). -/
  | cmdFormat (word : Word) (fmt : Byte)
deriving DecidableEq, Repr

/-- Why bytes are not a host transaction (30_encoding.md R91). -/
inductive DecodeError
  /-- There is no header byte. -/
  | noHeader
  /-- Header bits [6:5] are not 0: "not a transaction". -/
  | notATransaction (header : Byte)
  /-- A write header is not followed by 8 data bytes. -/
  | truncatedWrite (header : Byte)
  /-- Bytes are left after the one transaction asked for. -/
  | trailingBytes
deriving DecidableEq, Repr

/-- What the decoder answers: an instruction and the bytes after it, or a refusal by name. -/
inductive Decoded
  | ok (i : Instr) (rest : List Byte)
  | refused (e : DecodeError)
deriving DecidableEq, Repr

/-- OPCODE = v[7:0]; bits [63:8] are ignored (30_encoding.md R80). -/
def opcodeField (v : Word) : Byte := v.setWidth 8

/-- 30_encoding.md R81. -/
def legalOpcode (op : Byte) : Option Opcode :=
  if op = 0x01#8 then some .repack
  else if op = 0x02#8 then some .adpcmDecode
  else if op = 0x03#8 then some .adpcmReset
  else none

/-- 30_encoding.md R82: FMT 6 to 255 all mean OTHER. -/
def fmtClass (fmt : Byte) : FmtClass :=
  if fmt = 0#8 ∨ fmt = 1#8 then .p420
  else if fmt = 2#8 ∨ fmt = 3#8 then .p422
  else if fmt = 4#8 then .nvU
  else if fmt = 5#8 then .nvV
  else .other

/-- A CMD word alone: REPACK's format stays open (30_encoding.md R80, R81). -/
def decodeCmd (v : Word) : Instr :=
  match legalOpcode (opcodeField v) with
  | some .repack => .repack
  | some .adpcmDecode => .adpcmDecode
  | some .adpcmReset => .adpcmReset
  | none => .illegalOpcode (opcodeField v)

/-- The form of REPACK that FMT selects (30_encoding.md R82). -/
def repackForm (fmt : Byte) : Instr :=
  match fmtClass fmt with
  | .p420 => .repackP420 (fmt == 1#8)
  | .p422 => .repackP422 (fmt == 3#8)
  | .nvU => .repackNvU
  | .nvV => .repackNvV
  | .other => .repackOther fmt

/-- A CMD word with FORMAT.FMT: FMT matters to REPACK only (30_encoding.md R80). -/
def decodeCmdFormat (v : Word) (fmt : Byte) : Instr :=
  match legalOpcode (opcodeField v) with
  | some .repack => repackForm fmt
  | _ => decodeCmd v

/-- Eight data bytes, least significant first (30_encoding.md R91). -/
def wordOfBytes (b0 b1 b2 b3 b4 b5 b6 b7 : Byte) : Word :=
  b7 ++ b6 ++ b5 ++ b4 ++ b3 ++ b2 ++ b1 ++ b0

/-- The eight data bytes of a word, least significant first (30_encoding.md R91). -/
def bytesOfWord (v : Word) : List Byte :=
  [v.extractLsb' 0 8, v.extractLsb' 8 8, v.extractLsb' 16 8, v.extractLsb' 24 8,
   v.extractLsb' 32 8, v.extractLsb' 40 8, v.extractLsb' 48 8, v.extractLsb' 56 8]

/-- The first host transaction of a byte string: bit 7 of the header is the direction, bits [6:5] are 0 and
bits [4:0] the slot (30_encoding.md R91). -/
def decodeHostBus : List Byte → Decoded
  | [] => .refused .noHeader
  | h :: rest =>
    if h.extractLsb' 5 2 ≠ 0#2 then .refused (.notATransaction h)
    else if h.getLsbD 7 then
      match rest with
      | b0 :: b1 :: b2 :: b3 :: b4 :: b5 :: b6 :: b7 :: tail =>
        .ok (.mmioWrite (h.extractLsb' 0 5) (wordOfBytes b0 b1 b2 b3 b4 b5 b6 b7)) tail
      | _ => .refused (.truncatedWrite h)
    else .ok (.mmioRead (h.extractLsb' 0 5)) rest

/-- The instruction that the bits of one of the three formats stand for. -/
def decode : Encoded → Decoded
  | .hostBus bytes =>
    match decodeHostBus bytes with
    | .ok i [] => .ok i []
    | .ok _ (_ :: _) => .refused .trailingBytes
    | .refused e => .refused e
  | .cmd v => .ok (decodeCmd v) []
  | .cmdFormat v fmt => .ok (decodeCmdFormat v fmt) []

/-- The bits of an instruction. Ignored bits are written 0. -/
def encode : Instr → Encoded
  | .mmioRead slot => .hostBus [slot.setWidth 8]
  | .mmioWrite slot v => .hostBus ((0x80#8 ||| slot.setWidth 8) :: bytesOfWord v)
  | .repack => .cmd 0x01#64
  | .repackP420 fullRange => .cmdFormat 0x01#64 (if fullRange then 1#8 else 0#8)
  | .repackP422 fullRange => .cmdFormat 0x01#64 (if fullRange then 3#8 else 2#8)
  | .repackNvU => .cmdFormat 0x01#64 4#8
  | .repackNvV => .cmdFormat 0x01#64 5#8
  | .repackOther fmt => .cmdFormat 0x01#64 fmt
  | .adpcmDecode => .cmd 0x02#64
  | .adpcmReset => .cmd 0x03#64
  | .illegalOpcode op => .cmd (op.setWidth 64)

/-- The format in which a number of the opcode table is read. The table's HOSTBUS and CMD rows share their low
byte's values, so a low byte that is a legal OPCODE is read as a CMD word (with FORMAT in bits [71:64] when 72
bits are given), any other low byte that is a transaction header as HOSTBUS, and the rest as an illegal CMD word;
64 bits are always a CMD word (DESIGN CHOICE, notes/assumptions/1.md; safe: nothing the machine runs depends
on it). -/
def tableEncoded (nbits w : Nat) : Encoded :=
  let low := BitVec.ofNat 8 w
  if nbits = 64 then .cmd (BitVec.ofNat 64 w)
  else if (legalOpcode low).isSome then
    if nbits = 72 then .cmdFormat (BitVec.ofNat 64 w) (BitVec.ofNat 8 (w / 2 ^ 64))
    else .cmd (BitVec.ofNat 64 w)
  else if low.extractLsb' 5 2 ≠ 0#2 then .cmd (BitVec.ofNat 64 w)
  else if low.getLsbD 7 then .hostBus (low :: bytesOfWord (BitVec.ofNat 64 (w / 2 ^ 8)))
  else .hostBus [low]

/-- The instruction whose bits, numbered as spec/opcode_table.json numbers them, are `w`. -/
def decodeTableWord (nbits w : Nat) : Option Instr :=
  match decode (tableEncoded nbits w) with
  | .ok i _ => some i
  | .refused _ => none

end Sys2Proof
end

