-- ==== Sys2Proof/Machine/State.lean ====
section
/-! DEFINITION. The state of the machine: the register file of 10_state.md R24, the engine phase of R43, the system
memory of 20_memory.md R60 and the inputs to come, as plain data; the reasons to stop; and the state after reset. -/

namespace Sys2Proof.Machine

/-- STATUS but for BUSY, which is a function of the engine phase (10_state.md R27). -/
structure Status where
  done      : Bool
  errCmd    : Bool
  errBusy   : Bool
  errAddr   : Bool
  diagUnsup : Bool
  diagDim   : Bool
deriving DecidableEq, Repr

/-- The operand registers of REPACK (10_state.md R29 to R33, R43), each at its field's width. -/
structure FrameRegs where
  width    : BitVec 16
  height   : BitVec 16
  fmt      : Byte
  p0Addr   : Word
  p0Stride : BitVec 32
  p1Addr   : Word
  p1Stride : BitVec 32
  p2Addr   : Word
  p2Stride : BitVec 32
  dstAddr  : Word
deriving DecidableEq, Repr

/-- The operand registers of ADPCM_DECODE (10_state.md R38, R43). -/
structure AudioRegs where
  srcAddr : Word
  srcLen  : BitVec 32
  outAddr : Word
deriving DecidableEq, Repr

/-- REPACK_RESULT (10_state.md R34). -/
structure RepackResult where
  uMissing     : Bool
  vMissing     : Bool
  uSuspect     : Bool
  vSuspect     : Bool
  chromaFilled : Bool
  lumaAbsent   : Bool
  oddDim       : Bool
  unsupported  : Bool
deriving DecidableEq, Repr

/-- One channel's state: predictor, 16-bit two's complement, and step_index (10_state.md R41). -/
structure Channel where
  pred : BitVec 16
  idx  : BitVec 7
deriving DecidableEq, Repr

/-- A command with the snapshot of its operand registers (10_state.md R43). -/
inductive Command
  | repack (o : FrameRegs)
  | adpcmDecode (o : AudioRegs)
  | adpcmReset
deriving DecidableEq, Repr

/-- The engine phase (10_state.md R43). -/
inductive Engine
  | idle
  | busy (c : Command)
deriving DecidableEq, Repr

/-- The named registers of 10_state.md R24; `reserved` is every slot from 0xB8 on. -/
inductive Reg
  | version | ctrl | status | cmd | frameW | frameH | format
  | p0Addr | p0Stride | p1Addr | p1Stride | p2Addr | p2Stride | dstAddr
  | repackResult | dstLen | recDim | unsupCount | srcAddr | srcLen | outAddr | chL | chR
  | reserved
deriving DecidableEq, Repr

/-- One access of the host to its bus, of any width, at any address (40_host_interface.md R106). The data is a
whole value: its byte lanes are the platform's (20_memory.md R62). -/
structure BusAccess where
  write : Bool
  addr  : Word
  bytes : Nat
  data  : Word
deriving DecidableEq, Repr

/-- One move of an agent: an action of the host, the platform's reset, or a turn of the engine
(60_exceptions.md R208, 40_host_interface.md R108). -/
inductive Event
  /-- Host register transactions in the byte form of 30_encoding.md R91, one after the other. -/
  | transactions (bytes : List Byte)
  /-- A host bus access to the register window (40_host_interface.md R106). -/
  | access (a : BusAccess)
  /-- The host reads a byte of system memory (20_memory.md R69). -/
  | memRead (addr : Word)
  /-- The host writes a byte of system memory (20_memory.md R69). -/
  | memWrite (addr : Word) (value : Byte)
  /-- The platform asserts reset (70_reset_and_hazards.md R220). -/
  | reset
  /-- The engine is given its turn (40_host_interface.md R108). -/
  | engine
deriving DecidableEq, Repr

/-- System memory as (address, byte) pairs, addresses rising, no pair that holds what an unlisted address reads
as. -/
abbrev Memory := List Host.Cell

/-- The faults of 60_exceptions.md R202. A fault is recorded in `State.faults`, never cleared, and never final: the step
that meets it answers a next state (what the run is left with is notes/assumptions/14.md). -/
inductive Fault
  /-- A command's write set meets its read set. Recorded by the engine's REPACK and ADPCM_DECODE (20_memory.md R73).
  Safe: what the command computes from its reads is free values. -/
  | overlap
  /-- The host writes a footprint byte before it has read STATUS with BUSY = 0. Recorded by a host memory write
  (20_memory.md R69). Safe: what the command in flight computes from its reads is free values. -/
  | hostRace
  /-- A command's footprint reaches memory with read side effects. Recorded by the engine's REPACK and ADPCM_DECODE
  (20_memory.md R66). Unsafe for side effects outside the footprint, which the model leaves out. -/
  | nonIdempotent
deriving DecidableEq, Repr

/-- The whole machine. The first block of fields is the block's (10_state.md R20), `mem` the memory it shares with
the host, `platform` the OPEN parameters (which no step changes), `faults` the record of 60_exceptions.md R202 (newest
first), and the other fields after it the model's own (INVENTORY.md, State). -/
structure State where
  irqEn        : Bool
  status       : Status
  frame        : FrameRegs
  repackResult : RepackResult
  dstLen       : Word
  recW         : BitVec 16
  recH         : BitVec 16
  unsupCount   : Word
  audio        : AudioRegs
  chL          : Channel
  chR          : Channel
  engine       : Engine
  mem          : Memory
  platform     : Platform
  faults       : List Fault
  raced        : Bool
  agenda       : List Event
  unsynced     : List Command
  readData     : Word
  draws        : Nat
deriving DecidableEq, Repr

/-- Accesses and calls that are no step of the machine. -/
inductive Refusal
  /-- An instruction without a meaning yet. Raised by `exec` alone; there is none. Safe. -/
  | notModelled (mnemonic : String)
  /-- An engine instruction, or an illegal opcode, that is not the one the machine has before it
  (40_host_interface.md R108 "Enabled when", R103). No step raises it: `step` runs only the command in flight. Safe. -/
  | notEnabled
  /-- Host bytes that are no transaction (30_encoding.md R91). Raised by `step`. Safe. -/
  | notATransaction (e : DecodeError)
  /-- A host access that is not 64 bits wide, at this offset from REG_BASE (40_host_interface.md R106). Raised by `step`.
  Safe. -/
  | accessWidth (offset : Int) (bytes : Nat)
  /-- A host access outside the register window, at this offset from REG_BASE, negative below it (40_host_interface.md
  R106). Raised by `step`. Safe. -/
  | accessOutsideWindow (offset : Int)
  /-- A host access in the window at an offset that is no multiple of 8 (40_host_interface.md R106). Raised by `step`.
  Safe. -/
  | accessMisaligned (offset : Int)
  /-- A host access to system memory that the platform does not admit, or where a read has side effects, when it is
  none of the draw, the race and the read of a source byte of 20_memory.md R69: the platform's own, and the spec does not give it (R66, R67, R68).
  Raised by `step`. Safe. -/
  | platformMemory (addr : Word)
deriving DecidableEq, Repr

/-- The machine right after reset at power-on: the reset column of 10_state.md R24, the engine IDLE
(70_reset_and_hazards.md R220), memory with nothing listed. `platform` is an opaque constant; the fault record
and the model's own fields after it are empty, false or 0 (DESIGN CHOICE, notes/assumptions/15.md, unsafe). -/
def State.reset : State where
  irqEn        := false
  status       := ⟨false, false, false, false, false, false⟩
  frame        := ⟨0, 0, 0, 0, 0, 0, 0, 0, 0, 0⟩
  repackResult := ⟨false, false, false, false, false, false, false, false⟩
  dstLen       := 0
  recW         := 0
  recH         := 0
  unsupCount   := 0
  audio        := ⟨0, 0, 0⟩
  chL          := ⟨0, 0⟩
  chR          := ⟨0, 0⟩
  engine       := .idle
  mem          := []
  platform     := Config.platform
  faults       := []
  raced        := false
  agenda       := []
  unsynced     := []
  readData     := 0
  draws        := 0

end Sys2Proof.Machine
end

