-- ==== Sys2Proof/Machine/Ops.lean ====
section
/-! DEFINITION. The named operations over memory, address spans, STATUS and the engine phase: MemRead and MemWrite
(20_memory.md R61), raising an error (60_exceptions.md R201), completing a command (40_host_interface.md R108) and
drawing a free value (00_scope.md R8). -/

namespace Sys2Proof

/-- Whether an address lies in the span. -/
def Span.contains (sp : Span) (a : Nat) : Bool := decide (sp.base ≤ a ∧ a < sp.base + sp.len)

/-- Whether two spans share an address. -/
def Span.meets (x y : Span) : Bool :=
  decide (max x.base y.base < min (x.base + x.len) (y.base + y.len))

/-- Whether the span holds an address above 2^64 - 1 (41_repack.md R124, 42_adpcm.md R170). -/
def Span.overflows (sp : Span) : Bool := decide (0 < sp.len ∧ 2 ^ 64 < sp.base + sp.len)

/-- Whether `p` holds at every address of the span. -/
def Span.all (sp : Span) (p : Nat → Bool) : Bool := (List.range sp.len).all fun k => p (sp.base + k)

/-- The addresses that lie in both spans. -/
def Span.inter (x y : Span) : Span where
  base := max x.base y.base
  len  := min (x.base + x.len) (y.base + y.len) - max x.base y.base

/-- System memory, 2^64 bytes (20_memory.md R60). -/
def memorySpace : Span := ⟨0, 2 ^ 64⟩

/-- MEM_ADMIT (20_memory.md R67). -/
def Platform.admits (p : Platform) (a : Nat) : Bool := p.admitted.any fun sp => sp.contains a

/-- Whether a read at the address has a side effect (20_memory.md R66). -/
def Platform.sideEffectAt (p : Platform) (a : Nat) : Bool := p.readSideEffects.any fun sp => sp.contains a

/-- DIAG_PERIOD, at least 1 (00_scope.md R5). -/
def Platform.diagPeriod (p : Platform) : Nat := p.diagPeriodPred + 1

namespace Machine

/-- What an address reads as that nothing has written (DESIGN CHOICE, notes/assumptions/4.md, unsafe: the spec gives
memory no contents at power-on). -/
def Memory.unlisted : Byte := 0#8

/-- The byte at an address (20_memory.md R61, MemRead). -/
def Memory.read : Memory → Nat → Byte
  | [], _ => Memory.unlisted
  | (k, b) :: rest, a => if k = a then b else Memory.read rest a

/-- Memory without an entry for `a`. -/
def Memory.erase (m : Memory) (a : Nat) : Memory := m.filter fun c => c.1 != a

/-- Puts an entry before the first one at a higher address. -/
def Memory.insert : Memory → Nat → Byte → Memory
  | [], a, b => [(a, b)]
  | (k, c) :: rest, a, b =>
    if a < k then (a, b) :: (k, c) :: rest else (k, c) :: Memory.insert rest a b

/-- Writes one byte, keeping the canonical form (20_memory.md R61, MemWrite of 1 byte). -/
def Memory.write (m : Memory) (a : Nat) (b : Byte) : Memory :=
  if b = Memory.unlisted then Memory.erase m a else Memory.insert (Memory.erase m a) a b

/-- Writes `f 0` to `f (n - 1)` at the `n` addresses from `base` on. -/
def Memory.writeRow (m : Memory) (base : Nat) : Nat → (Nat → Byte) → Memory
  | 0, _ => m
  | n + 1, f => Memory.write (Memory.writeRow m base n f) (base + n) (f n)

/-- Writes `f r c` at `base + r * cols + c` for `r < rows` and `c < cols` (the loops of 41_repack.md R125 to R133). -/
def Memory.writeGrid (m : Memory) (base cols : Nat) : Nat → (Nat → Nat → Byte) → Memory
  | 0, _ => m
  | r + 1, f => Memory.writeRow (Memory.writeGrid m base cols r f) (base + r * cols) cols (f r)

/-- MemWrite of 4 bytes, least significant first (20_memory.md R61, R62). -/
def Memory.write32 (m : Memory) (a : Nat) (v : BitVec 32) : Memory :=
  Memory.writeRow m a 4 fun i => v.extractLsb' (8 * i) 8

/-- The canonical form: addresses strictly rising, and no entry equal to what an unlisted address reads as. -/
abbrev Memory.wf (m : Memory) : Prop :=
  m.Pairwise (fun x y => x.1 < y.1) ∧ ∀ c ∈ m, c.2 ≠ Memory.unlisted

/-- BUSY: 1 exactly while the engine phase is BUSY (10_state.md R27, R43). -/
def State.busy (s : State) : Bool :=
  match s.engine with
  | .idle => false
  | .busy _ => true

/-- The interrupt output (10_state.md R44, 60_exceptions.md R204). -/
def State.irq (s : State) : Bool := s.irqEn && s.status.done

/-- ERR_CMD: the opcode is rejected and DONE set (40_host_interface.md R103, 60_exceptions.md R201). -/
def raiseErrCmd (s : State) : State :=
  { s with status := { s.status with errCmd := true, done := true } }

/-- ERR_BUSY: the host's write is dropped (40_host_interface.md R102, 60_exceptions.md R201). -/
def raiseErrBusy (s : State) : State :=
  { s with status := { s.status with errBusy := true } }

/-- ERR_ADDR: the command makes no access and changes no other register (60_exceptions.md R201). -/
def raiseErrAddr (s : State) : State :=
  { s with status := { s.status with errAddr := true } }

/-- The end of ENGINE_COMPLETE: the engine is IDLE, BUSY 0 and DONE 1 (40_host_interface.md R108). -/
def completeCommand (s : State) : State :=
  { s with engine := .idle, status := { s.status with done := true }, raced := false }

/-- A legal opcode is accepted: DONE is cleared and the engine is BUSY with the snapshot (40_host_interface.md R103).
The window of host duty of 20_memory.md R69 opens for the command. -/
def acceptCommand (c : Command) (s : State) : State :=
  { s with
    status := { s.status with done := false }
    engine := .busy c
    unsynced := c :: s.unsynced
    raced := false }

/-- The host receives `v`. -/
def returnWord (v : Word) (s : State) : State := { s with readData := v }

/-- The host receives a draw of a register word (70_reset_and_hazards.md R228). -/
def drawWord (s : State) : State :=
  { s with readData := Config.freeWord s.draws, draws := s.draws + 1 }

/-- The host receives a draw of a memory byte (20_memory.md R69). -/
def drawByte (s : State) : State :=
  { s with readData := (Config.freeByte s.draws).setWidth 64, draws := s.draws + 1 }

/-- Every byte of the span becomes a draw of its own (70_reset_and_hazards.md R222). -/
def drawSpan (sp : Span) (s : State) : State :=
  { s with
    mem := Memory.writeRow s.mem sp.base sp.len fun k => Config.freeByte (s.draws + k)
    draws := s.draws + sp.len }

/-- Every byte of the spans becomes a draw. -/
def drawSpans (l : List Span) (s : State) : State := l.foldl (fun t sp => drawSpan sp t) s

/-- Faults are recorded and never cleared (60_exceptions.md R202). -/
def recordFaults (l : List Fault) (s : State) : State := { s with faults := l ++ s.faults }

/-- A read of STATUS that returns BUSY = 0 ends the window of host duty (20_memory.md R69, R71). -/
def synchronise (s : State) : State := { s with unsynced := [] }

end Machine

end Sys2Proof
end

