-- ==== Sys2Proof/Machine/Operands.lean ====
section
/-! DEFINITION. The operands: the register map and how a register word is assembled and taken apart (10_state.md
R24 to R42), the sizes and probe offsets of REPACK (41_repack.md R122, R127), and the footprints of the commands
(41_repack.md R124, 42_adpcm.md R170). -/

namespace Sys2Proof.Machine

/-- VERSION.LAYOUT_VERSION, hard-wired (10_state.md R25). -/
def layoutVersion : Byte := 0x01#8

/-- The registers in the order of their offsets 0x00, 0x08, ..., 0xB0 (10_state.md R24). -/
def registerMap : List Reg :=
  [.version, .ctrl, .status, .cmd, .frameW, .frameH, .format,
   .p0Addr, .p0Stride, .p1Addr, .p1Stride, .p2Addr, .p2Stride, .dstAddr,
   .repackResult, .dstLen, .recDim, .unsupCount,
   .srcAddr, .srcLen, .outAddr, .chL, .chR]

/-- The register at offset `8 * slot` (10_state.md R23, R24, R42). -/
def slotReg (slot : BitVec 5) : Reg := registerMap.getD slot.toNat .reserved

/-- STATUS as the host reads it (10_state.md R27). -/
def statusWord (s : State) : Word :=
  (BitVec.ofBool s.status.diagDim ++ BitVec.ofBool s.status.diagUnsup ++ BitVec.ofBool s.status.errAddr ++
    BitVec.ofBool s.status.errBusy ++ BitVec.ofBool s.status.errCmd ++ BitVec.ofBool s.status.done ++
    BitVec.ofBool s.busy : BitVec 7).setWidth 64

/-- REPACK_RESULT as the host reads it (10_state.md R34, 41_repack.md R136). -/
def RepackResult.word (r : RepackResult) : Word :=
  (BitVec.ofBool r.unsupported ++ BitVec.ofBool r.oddDim ++ BitVec.ofBool r.lumaAbsent ++
    BitVec.ofBool r.chromaFilled ++ BitVec.ofBool r.vSuspect ++ BitVec.ofBool r.uSuspect ++
    BitVec.ofBool r.vMissing ++ BitVec.ofBool r.uMissing : BitVec 8).setWidth 64

/-- CH_L or CH_R as the host reads it (30_encoding.md R85). -/
def Channel.word (c : Channel) : Word := (c.idx ++ c.pred : BitVec 23).setWidth 64

/-- The current value of a register as the host reads it; WO and R0 fields read as 0 (40_host_interface.md R100). -/
def regWord (r : Reg) (s : State) : Word :=
  match r with
  | .version => layoutVersion.setWidth 64
  | .ctrl => (BitVec.ofBool s.irqEn).setWidth 64
  | .status => statusWord s
  | .cmd => 0#64
  | .frameW => s.frame.width.setWidth 64
  | .frameH => s.frame.height.setWidth 64
  | .format => s.frame.fmt.setWidth 64
  | .p0Addr => s.frame.p0Addr
  | .p0Stride => s.frame.p0Stride.setWidth 64
  | .p1Addr => s.frame.p1Addr
  | .p1Stride => s.frame.p1Stride.setWidth 64
  | .p2Addr => s.frame.p2Addr
  | .p2Stride => s.frame.p2Stride.setWidth 64
  | .dstAddr => s.frame.dstAddr
  | .repackResult => s.repackResult.word
  | .dstLen => s.dstLen
  | .recDim => (s.recH ++ s.recW : BitVec 32).setWidth 64
  | .unsupCount => s.unsupCount
  | .srcAddr => s.audio.srcAddr
  | .srcLen => s.audio.srcLen.setWidth 64
  | .outAddr => s.audio.outAddr
  | .chL => s.chL.word
  | .chR => s.chR.word
  | .reserved => 0#64

/-- The WARL rule of IDX: `min(v, 88)` (10_state.md R41). -/
def legaliseIdx (v : BitVec 7) : BitVec 7 := if 88 < v.toNat then 88#7 else v

/-- What a host write of `v` stores in CH_L or CH_R (10_state.md R41). -/
def channelOfWord (v : Word) : Channel where
  pred := v.setWidth 16
  idx := legaliseIdx (v.extractLsb' 16 7)

/-- A host write of `v` clears the W1C bits of STATUS whose bit in `v` is 1 (10_state.md R24, R27). -/
def clearStatus (v : Word) (st : Status) : Status where
  done := st.done && !v.getLsbD 1
  errCmd := st.errCmd && !v.getLsbD 2
  errBusy := st.errBusy && !v.getLsbD 3
  errAddr := st.errAddr && !v.getLsbD 4
  diagUnsup := st.diagUnsup && !v.getLsbD 5
  diagDim := st.diagDim && !v.getLsbD 6

/-- A host write that lands, field by field (40_host_interface.md R101): RW fields store, W1C bits clear, WARL
fields are legalised, and RO, WO and R0 fields do not change. -/
def writeReg (r : Reg) (v : Word) (s : State) : State :=
  match r with
  | .ctrl => { s with irqEn := v.getLsbD 0 }
  | .status => { s with status := clearStatus v s.status }
  | .frameW => { s with frame := { s.frame with width := v.setWidth 16 } }
  | .frameH => { s with frame := { s.frame with height := v.setWidth 16 } }
  | .format => { s with frame := { s.frame with fmt := v.setWidth 8 } }
  | .p0Addr => { s with frame := { s.frame with p0Addr := v } }
  | .p0Stride => { s with frame := { s.frame with p0Stride := v.setWidth 32 } }
  | .p1Addr => { s with frame := { s.frame with p1Addr := v } }
  | .p1Stride => { s with frame := { s.frame with p1Stride := v.setWidth 32 } }
  | .p2Addr => { s with frame := { s.frame with p2Addr := v } }
  | .p2Stride => { s with frame := { s.frame with p2Stride := v.setWidth 32 } }
  | .dstAddr => { s with frame := { s.frame with dstAddr := v } }
  | .srcAddr => { s with audio := { s.audio with srcAddr := v } }
  | .srcLen => { s with audio := { s.audio with srcLen := v.setWidth 32 } }
  | .outAddr => { s with audio := { s.audio with outAddr := v } }
  | .chL => { s with chL := channelOfWord v }
  | .chR => { s with chR := channelOfWord v }
  | .version => s
  | .cmd => s
  | .repackResult => s
  | .dstLen => s
  | .recDim => s
  | .unsupCount => s
  | .reserved => s

/-- The command of an opcode with a copy of its operand registers (10_state.md R43). -/
def snapshot (op : Opcode) (s : State) : Command :=
  match op with
  | .repack => .repack s.frame
  | .adpcmDecode => .adpcmDecode s.audio
  | .adpcmReset => .adpcmReset

/-- Whether the format stores U and V in one shared plane (30_encoding.md R83). -/
def semiplanar (fmt : Byte) : Bool :=
  match fmtClass fmt with
  | .nvU => true
  | .nvV => true
  | _ => false

/-- Whether the format is not OTHER (30_encoding.md R83). -/
def supported (fmt : Byte) : Bool := fmtClass fmt != .other

/-- `uvw = W / 2` (41_repack.md R122). -/
def FrameRegs.uvWidth (o : FrameRegs) : Nat := o.width.toNat / 2

/-- `uvh = H / 2` (41_repack.md R122). -/
def FrameRegs.uvHeight (o : FrameRegs) : Nat := o.height.toNat / 2

/-- `ys = W * H` (41_repack.md R122). -/
def FrameRegs.ySize (o : FrameRegs) : Nat := o.width.toNat * o.height.toNat

/-- `uvs = uvw * uvh` (41_repack.md R122). -/
def FrameRegs.uvSize (o : FrameRegs) : Nat := o.uvWidth * o.uvHeight

/-- `L = ys + 2 * uvs` (41_repack.md R122). -/
def FrameRegs.bufLen (o : FrameRegs) : Nat := o.ySize + 2 * o.uvSize

/-- PROBE, meaningful when `uvs > 0` (41_repack.md R127). -/
def FrameRegs.probes (o : FrameRegs) : List Nat :=
  [0, o.uvWidth / 2, o.uvWidth - 1, o.uvSize / 4, o.uvSize / 2, o.uvSize - 1]

/-- The addresses `base + r * stride + c` for `r < rows` and `c < cols`, a span for each row. -/
def planeSpans (base stride rows cols : Nat) : List Span :=
  (List.range rows).map fun r => ⟨base + r * stride, cols⟩

/-- The probed addresses of a plane at `base` (41_repack.md R124, R127). -/
def FrameRegs.probeSpans (o : FrameRegs) (base : Nat) : List Span :=
  o.probes.map fun off => ⟨base + off, 1⟩

/-- The part of RD that a plane pointer contributes: nothing when it is null (41_repack.md R124). -/
def unlessNull (p : Word) (spans : List Span) : List Span := if p = 0#64 then [] else spans

/-- The chroma part of RD that the copy of the format's class reads (41_repack.md R124). -/
def FrameRegs.copyReads (o : FrameRegs) : List Span :=
  match fmtClass o.fmt with
  | .p420 =>
    unlessNull o.p1Addr (planeSpans o.p1Addr.toNat o.p1Stride.toNat o.uvHeight o.uvWidth) ++
    unlessNull o.p2Addr (planeSpans o.p2Addr.toNat o.p2Stride.toNat o.uvHeight o.uvWidth)
  | .p422 =>
    unlessNull o.p1Addr (planeSpans o.p1Addr.toNat (2 * o.p1Stride.toNat) o.uvHeight o.uvWidth) ++
    unlessNull o.p2Addr (planeSpans o.p2Addr.toNat (2 * o.p2Stride.toNat) o.uvHeight o.uvWidth)
  | .nvU => unlessNull o.p1Addr (planeSpans o.p1Addr.toNat o.p1Stride.toNat o.uvHeight (2 * o.uvWidth))
  | .nvV => unlessNull o.p1Addr (planeSpans o.p1Addr.toNat o.p1Stride.toNat o.uvHeight (2 * o.uvWidth))
  | .other => []

/-- RD of REPACK (41_repack.md R124). -/
def FrameRegs.readSet (o : FrameRegs) : List Span :=
  unlessNull o.p0Addr (planeSpans o.p0Addr.toNat o.p0Stride.toNat o.height.toNat o.width.toNat) ++
  (if 0 < o.uvSize then
    unlessNull o.p1Addr (o.probeSpans o.p1Addr.toNat) ++
    (if semiplanar o.fmt then [] else unlessNull o.p2Addr (o.probeSpans o.p2Addr.toNat)) ++
    o.copyReads
  else [])

/-- WR of a command (41_repack.md R124, 42_adpcm.md R170); ADPCM_RESET makes no access (R166). -/
def Command.writeSet : Command → Span
  | .repack o => ⟨o.dstAddr.toNat, o.bufLen⟩
  | .adpcmDecode o => ⟨o.outAddr.toNat, 8 * o.srcLen.toNat⟩
  | .adpcmReset => ⟨0, 0⟩

/-- RD of a command (41_repack.md R124, 42_adpcm.md R170). -/
def Command.readSet : Command → List Span
  | .repack o => o.readSet
  | .adpcmDecode o => [⟨o.srcAddr.toNat, o.srcLen.toNat⟩]
  | .adpcmReset => []

/-- FP = WR and RD (41_repack.md R124, 42_adpcm.md R170). -/
def Command.footprint (c : Command) : List Span := c.writeSet :: c.readSet

/-- Whether the footprint holds an address above 2^64 - 1 (41_repack.md R124, 42_adpcm.md R170). -/
def Command.overflows (c : Command) : Bool := c.footprint.any Span.overflows

/-- Whether the platform admits every footprint address (20_memory.md R67). -/
def Command.admittedBy (c : Command) (p : Platform) : Bool := c.footprint.all fun sp => sp.all p.admits

/-- Whether the footprint reaches memory with read side effects (20_memory.md R66). -/
def Command.touchesSideEffects (c : Command) (p : Platform) : Bool :=
  c.footprint.any fun sp => sp.len != 0 && p.readSideEffects.any fun q => sp.meets q

/-- Whether the write set meets the read set (20_memory.md R73). -/
def Command.overlaps (c : Command) : Bool := c.readSet.any fun sp => c.writeSet.meets sp

/-- The faults of a command that runs on the platform (60_exceptions.md R202): each one whose condition holds. -/
def Command.faultsOn (c : Command) (p : Platform) : List Fault :=
  (if c.touchesSideEffects p then [.nonIdempotent] else []) ++ (if c.overlaps then [.overlap] else [])

/-- The footprint bytes in memory with read side effects (20_memory.md R66). -/
def Command.sideEffectSpans (c : Command) (p : Platform) : List Span :=
  c.footprint.flatMap fun sp => p.readSideEffects.map sp.inter

/-- The bytes the command writes, for a host read beside it: none when it is to end with ERR_ADDR, which "makes no
memory access" (41_repack.md R124, 42_adpcm.md R170; DEDUCED, notes/assumptions/13.md, unsafe). -/
def Command.liveWrites (c : Command) : Span := if c.overflows then ⟨0, 0⟩ else c.writeSet

end Sys2Proof.Machine
end

