-- ==== Sys2Proof/Machine/Flags.lean ====
section
/-! DEFINITION. The flags REPACK computes: availability and suspicion of the chroma planes, the fill decision,
REPACK_RESULT, and the two diagnostic notices (41_repack.md R121, R126 to R129, R134, R136). -/

namespace Sys2Proof.Machine

/-- U_MISSING: the plane 1 pointer is null (41_repack.md R126). -/
def FrameRegs.uMissing (o : FrameRegs) : Bool := decide (o.p1Addr = 0#64)

/-- V_MISSING: the plane 2 pointer is null and the format is not semiplanar (41_repack.md R126). -/
def FrameRegs.vMissing (o : FrameRegs) : Bool := decide (o.p2Addr = 0#64) && !semiplanar o.fmt

/-- Whether all six probe bytes of the plane at `base` are 0 (41_repack.md R128). -/
def probeZero (m : Memory) (o : FrameRegs) (base : Nat) : Bool :=
  o.probes.all fun off => decide (Memory.read m (base + off) = 0#8)

/-- Whether the U plane, or the shared plane, is probed at all (41_repack.md R128). -/
def FrameRegs.uProbed (o : FrameRegs) : Bool := decide (0 < o.uvSize) && !o.uMissing

/-- Whether the V plane is probed at all (41_repack.md R128). -/
def FrameRegs.vProbed (o : FrameRegs) : Bool := decide (0 < o.uvSize) && !semiplanar o.fmt && !o.vMissing

/-- U_SUSPECT (41_repack.md R128). -/
def FrameRegs.uSuspect (o : FrameRegs) (m : Memory) : Bool := o.uProbed && probeZero m o o.p1Addr.toNat

/-- V_SUSPECT (41_repack.md R128). -/
def FrameRegs.vSuspect (o : FrameRegs) (m : Memory) : Bool := o.vProbed && probeZero m o o.p2Addr.toNat

/-- The fill decision, given which planes are suspect (41_repack.md R129). -/
def FrameRegs.fillWith (o : FrameRegs) (uSuspect vSuspect : Bool) : Bool :=
  o.uMissing || o.vMissing || uSuspect || vSuspect || !supported o.fmt

/-- The fill decision (41_repack.md R129). -/
def FrameRegs.fill (o : FrameRegs) (m : Memory) : Bool := o.fillWith (o.uSuspect m) (o.vSuspect m)

/-- ODD_DIM = W[0] OR H[0] (41_repack.md R123). -/
def FrameRegs.oddDim (o : FrameRegs) : Bool := o.width.getLsbD 0 || o.height.getLsbD 0

/-- REPACK_RESULT, given which planes are suspect (41_repack.md R136). -/
def repackResultWith (o : FrameRegs) (uSuspect vSuspect : Bool) : RepackResult where
  uMissing := o.uMissing
  vMissing := o.vMissing
  uSuspect := uSuspect
  vSuspect := vSuspect
  chromaFilled := o.fillWith uSuspect vSuspect
  lumaAbsent := decide (o.p0Addr = 0#64)
  oddDim := o.oddDim
  unsupported := !supported o.fmt

/-- The value REPACK gives REPACK_RESULT (41_repack.md R136). -/
def repackResultOf (o : FrameRegs) (m : Memory) : RepackResult :=
  repackResultWith o (o.uSuspect m) (o.vSuspect m)

/-- Whether (W, H) differs from the recorded dimensions (41_repack.md R121). -/
def dimChanged (o : FrameRegs) (s : State) : Bool := decide (¬ (o.width = s.recW ∧ o.height = s.recH))

/-- Whether an OTHER call is one of those that set DIAG_UNSUP (41_repack.md R134). -/
def noticeDue (s : State) : Bool := decide (s.unsupCount.toNat % s.platform.diagPeriod = 0)

end Sys2Proof.Machine
end

