-- ==== Sys2Proof/Machine/Engine.lean ====
section
/-! DEFINITION. The engine's step ENGINE_COMPLETE, shared by every command (40_host_interface.md R108), and the reset
input (70_reset_and_hazards.md R220 to R223). -/

namespace Sys2Proof.Machine

/-- What REPACK computes from the bytes it reads, other than its buffer, becomes free: U_SUSPECT and V_SUSPECT where the
plane is probed, and CHROMA_FILLED from them (41_repack.md R128, R129). -/
def drawSuspicion (o : FrameRegs) (s : State) : State :=
  { s with
    repackResult := repackResultWith o
      (o.uProbed && (Config.freeWord s.draws).getLsbD 0) (o.vProbed && (Config.freeWord s.draws).getLsbD 1)
    draws := s.draws + 1 }

/-- Both channels become free, each with a predictor and a step index in range (10_state.md R45). -/
def drawChannels (s : State) : State :=
  { s with
    chL := channelOfWord (Config.freeWord s.draws)
    chR := channelOfWord (Config.freeWord (s.draws + 1))
    draws := s.draws + 2 }

/-- After the body of a command that met a fault: every value it computed from bytes it read is free, its output bytes
among them; what the rules give without those bytes stays, so an empty decode leaves its channels (42_adpcm.md R165;
DESIGN CHOICE, notes/assumptions/14.md). -/
def forgetReads (c : Command) (s : State) : State :=
  match c with
  | .repack o => drawSpan c.writeSet (drawSuspicion o s)
  | .adpcmDecode o => if o.srcLen = 0#32 then s else drawSpan c.writeSet (drawChannels s)
  | .adpcmReset => s

/-- The command completes with a fault recorded, now or by the host's race before (60_exceptions.md R202). Bytes of its
footprint in memory with read side effects are free too (20_memory.md R66). -/
def faultedBody (c : Command) (body : State → State) (s : State) : State :=
  recordFaults (c.faultsOn s.platform) (drawSpans (c.sideEffectSpans s.platform) (forgetReads c (body s)))

/-- ENGINE_COMPLETE around a command's body (40_host_interface.md R108). A footprint past 2^64 - 1 ends the command
with ERR_ADDR before any access. A footprint the platform does not admit leaves the engine stuck: nothing changes
and BUSY stays 1 (20_memory.md R67). The faults of 60_exceptions.md R202 are met by a command that runs, after both
checks (DEDUCED, notes/assumptions/8.md, safe). The body, the clearing of BUSY and the setting of DONE are one step. -/
def runCommand (c : Command) (body : State → State) (s : State) : Host.Outcome State Fault Refusal :=
  if c.overflows then .next (completeCommand (raiseErrAddr s))
  else if !c.admittedBy s.platform then .next s
  else if c.touchesSideEffects s.platform || c.overlaps || s.raced then
    .next (completeCommand (faultedBody c body s))
  else .next (completeCommand (body s))

/-- The bytes a reset leaves undefined: every byte of memory in the write set of the command in flight, one that is to
end with ERR_ADDR too (70_reset_and_hazards.md R222). -/
def abortedWrites (s : State) : Span :=
  match s.engine with
  | .idle => ⟨0, 0⟩
  | .busy c => c.writeSet.inter memorySpace

/-- The platform asserts reset: every register field takes its reset value and the engine is IDLE
(70_reset_and_hazards.md R220), system memory does not change (R223) but for the bytes of the aborted command's write
set, which are draws (R222). An aborted command records no OVERLAP and no NONIDEMPOTENT, and its footprint bytes with
read side effects stay unless they are in the write set: the spec is silent there (DESIGN CHOICE,
notes/assumptions/26.md, unsafe). A reset is no ordering point, so it closes no window of host duty (20_memory.md R71,
R75; notes/assumptions/11.md). The platform, the fault record (60_exceptions.md R202 "never cleared"), the inputs to
come and what the host has read stay. -/
def assertReset (s : State) : State :=
  let t := drawSpan (abortedWrites s) s
  { State.reset with
    mem := t.mem
    draws := t.draws
    platform := s.platform
    faults := s.faults
    agenda := s.agenda
    unsynced := s.unsynced
    readData := s.readData }

end Sys2Proof.Machine
end

