-- ==== Sys2Proof/Machine/Adpcm.lean ====
section
/-! DEFINITION. The Predictive Audio Decoder: the tables, the step function, the sample format, ADPCM_DECODE and
ADPCM_RESET (42_adpcm.md, 30_encoding.md R84 to R88). -/

namespace Sys2Proof.Machine

/-- STEP_TABLE (42_adpcm.md R160). The values are the standard IMA/DVI table: PRESUMED, from general knowledge, as the
rule itself marks them (notes/assumptions/9.md, unsafe). -/
def stepTable : List Nat :=
  [7, 8, 9, 10, 11, 12, 13, 14, 16, 17] ++
  [19, 21, 23, 25, 28, 31, 34, 37, 41, 45] ++
  [50, 55, 60, 66, 73, 80, 88, 97, 107, 118] ++
  [130, 143, 157, 173, 190, 209, 230, 253, 279, 307] ++
  [337, 371, 408, 449, 494, 544, 598, 658, 724, 796] ++
  [876, 963, 1060, 1166, 1282, 1411, 1552, 1707, 1878, 2066] ++
  [2272, 2499, 2749, 3024, 3327, 3660, 4026, 4428, 4871, 5358] ++
  [5894, 6484, 7132, 7845, 8630, 9493, 10442, 11487, 12635, 13899] ++
  [15289, 16818, 18500, 20350, 22385, 24623, 27086, 29794, 32767]

/-- STEP_TABLE[i]. An index above 88 is in no reachable state (10_state.md R45); it reads as the last entry. -/
def stepSize (i : Nat) : Nat := stepTable.getD i 32767

/-- INDEX_TABLE[n] = T8[n mod 8] (42_adpcm.md R160). -/
def indexDelta (n : BitVec 4) : Int := [-1, -1, -1, -1, 2, 4, 6, 8].getD (n.toNat % 8) 0

/-- `clamp(x, lo, hi)` (00_scope.md R7). -/
def clamp (x lo hi : Int) : Int := min (max x lo) hi

/-- `diff` of ADPCM_STEP (42_adpcm.md R161). -/
def nibbleDiff (step : Nat) (n : BitVec 4) : Nat :=
  (step >>> 3) + (if n.getLsbD 2 then step else 0) + (if n.getLsbD 1 then step >>> 1 else 0) +
    (if n.getLsbD 0 then step >>> 2 else 0)

/-- ADPCM_STEP on mathematical integers (42_adpcm.md R161). -/
def adpcmStep (p : Int) (i : Nat) (n : BitVec 4) : Int × Int :=
  let diff : Int := nibbleDiff (stepSize i) n
  (clamp (if n.getLsbD 3 then p - diff else p + diff) (-32768) 32767, clamp (i + indexDelta n) 0 88)

/-- One nibble on a channel's state (42_adpcm.md R163; fields read by 30_encoding.md R93). -/
def Channel.step (c : Channel) (n : BitVec 4) : Channel :=
  let next := adpcmStep c.pred.toInt c.idx.toNat n
  { pred := BitVec.ofInt 16 next.1, idx := BitVec.ofInt 7 next.2 }

/-- F32(p): the binary32 pattern of p / 32768 (30_encoding.md R88). -/
def f32 (p : Int) : BitVec 32 :=
  if p = 0 then 0#32
  else
    let sign : Nat := if p < 0 then 1 else 0
    let e := Nat.log2 p.natAbs
    BitVec.ofNat 32 ((sign <<< 31) ||| ((e + 112) <<< 23) ||| ((p.natAbs - 2 ^ e) <<< (23 - e)))

/-- The sample of a channel: its updated predictor (42_adpcm.md R162). -/
def Channel.sample (c : Channel) : BitVec 32 := f32 c.pred.toInt

/-- The left channel's nibble, bits [7:4] (30_encoding.md R84). -/
def highNibble (b : Byte) : BitVec 4 := b.extractLsb' 4 4

/-- The right channel's nibble, bits [3:0] (30_encoding.md R84). -/
def lowNibble (b : Byte) : BitVec 4 := b.extractLsb' 0 4

/-- Where the decoding loop stands: the two channels and the memory written so far. -/
structure Decoding where
  left  : Channel
  right : Channel
  mem   : Memory

/-- One turn of the loop of ADPCM_DECODE: byte `b`, whose pair goes to `out` (42_adpcm.md R163, 30_encoding.md R87). -/
def Decoding.turn (d : Decoding) (b : Byte) (out : Nat) : Decoding where
  left := d.left.step (highNibble b)
  right := d.right.step (lowNibble b)
  mem := Memory.write32 (Memory.write32 d.mem out (d.left.step (highNibble b)).sample)
    (out + 4) (d.right.step (lowNibble b)).sample

/-- The first `n` turns of the loop, the input read from `src` (42_adpcm.md R163). -/
def decodeLoop (src : Memory) (a out : Nat) (d : Decoding) : Nat → Decoding
  | 0 => d
  | n + 1 => (decodeLoop src a out d n).turn (Memory.read src (a + n)) (out + 8 * n)

/-- The body of ADPCM_DECODE (42_adpcm.md R163). -/
def decodeBody (o : AudioRegs) (s : State) : State :=
  let d := decodeLoop s.mem o.srcAddr.toNat o.outAddr.toNat ⟨s.chL, s.chR, s.mem⟩ o.srcLen.toNat
  { s with chL := d.left, chR := d.right, mem := d.mem }

/-- ADPCM_DECODE (42_adpcm.md R163). -/
def execAdpcmDecode (s : State) : Host.Outcome State Fault Refusal :=
  match s.engine with
  | .busy (.adpcmDecode o) => runCommand (.adpcmDecode o) (decodeBody o) s
  | _ => .refused .notEnabled

/-- ADPCM_RESET: both channels become (0, 0) (42_adpcm.md R166). -/
def execAdpcmReset (s : State) : Host.Outcome State Fault Refusal :=
  match s.engine with
  | .busy .adpcmReset => runCommand .adpcmReset (fun t => { t with chL := ⟨0#16, 0#7⟩, chR := ⟨0#16, 0#7⟩ }) s
  | _ => .refused .notEnabled

end Sys2Proof.Machine
end

