-- ==== Sys2Proof/Machine/Mmio.lean ====
section
/-! DEFINITION. The host's register transactions: MMIO_READ, MMIO_WRITE with COMMAND_WRITE inside it, and
ILLEGAL_OPCODE (40_host_interface.md R100 to R105). -/

namespace Sys2Proof.Machine

/-- The host reads a register (40_host_interface.md R100): CH_L and CH_R are draws while BUSY = 1
(70_reset_and_hazards.md R228), every other read returns the current value. A read of STATUS that returns BUSY = 0
is the host's synchronisation point (20_memory.md R71). -/
def hostRead (r : Reg) (s : State) : State :=
  if s.busy then
    (if r = .chL ∨ r = .chR then drawWord s else returnWord (regWord r s) s)
  else
    (if r = .status then synchronise (returnWord (regWord r s) s) else returnWord (regWord r s) s)

/-- COMMAND_WRITE, with BUSY = 0 (40_host_interface.md R103). -/
def commandWrite (v : Word) (s : State) : State :=
  match legalOpcode (opcodeField v) with
  | none => raiseErrCmd s
  | some op => acceptCommand (snapshot op s) s

/-- The host writes a register (40_host_interface.md R101, R102; priority by 60_exceptions.md R203). -/
def hostWrite (r : Reg) (v : Word) (s : State) : State :=
  if s.busy ∧ r ≠ .ctrl ∧ r ≠ .status then raiseErrBusy s
  else if r = .cmd then commandWrite v s
  else writeReg r v s

/-- MMIO_READ (40_host_interface.md R100). -/
def execMmioRead (slot : BitVec 5) (s : State) : Host.Outcome State Fault Refusal :=
  .next (hostRead (slotReg slot) s)

/-- MMIO_WRITE (40_host_interface.md R101). -/
def execMmioWrite (slot : BitVec 5) (value : Word) (s : State) : Host.Outcome State Fault Refusal :=
  .next (hostWrite (slotReg slot) value s)

/-- ILLEGAL_OPCODE: a CMD write of an opcode that is not legal (40_host_interface.md R103); while BUSY = 1 it is
dropped with ERR_BUSY (60_exceptions.md R203). -/
def execIllegalOpcode (op : Byte) (s : State) : Host.Outcome State Fault Refusal :=
  if (legalOpcode op).isSome then .refused .notEnabled
  else if s.busy then .next (raiseErrBusy s)
  else .next (raiseErrCmd s)

end Sys2Proof.Machine
end

