-- ==== Sys2Proof/Machine/Repack.lean ====
section
/-! DEFINITION. The Plane Repacker: REPACK in its five format classes (41_repack.md). Every stage reads the memory as
it stood before the command: a command is one atomic step whose write set does not meet its read set
(20_memory.md R70, R73). -/

namespace Sys2Proof.Machine

/-- What the luma region receives at row `r`, column `c`: the source byte, or 0 when plane 0 is null (41_repack.md R125). -/
def lumaByte (m : Memory) (o : FrameRegs) (r c : Nat) : Byte :=
  if o.p0Addr = 0#64 then 0#8 else Memory.read m (o.p0Addr.toNat + r * o.p0Stride.toNat + c)

/-- The chroma samples of a frame, in the rows and columns of the packed buffer. -/
structure ChromaSource where
  u : Nat → Nat → Byte
  v : Nat → Nat → Byte

/-- copy_p420: both planes row by row at native stride (41_repack.md R130). -/
def chromaP420 (m : Memory) (o : FrameRegs) : ChromaSource where
  u r c := Memory.read m (o.p1Addr.toNat + r * o.p1Stride.toNat + c)
  v r c := Memory.read m (o.p2Addr.toNat + r * o.p2Stride.toNat + c)

/-- copy_p422: every second source row (41_repack.md R131). -/
def chromaP422 (m : Memory) (o : FrameRegs) : ChromaSource where
  u r c := Memory.read m (o.p1Addr.toNat + (2 * r) * o.p1Stride.toNat + c)
  v r c := Memory.read m (o.p2Addr.toNat + (2 * r) * o.p2Stride.toNat + c)

/-- copy_nv_u: the even bytes of the shared plane are U, the odd ones V (41_repack.md R132). -/
def chromaNvU (m : Memory) (o : FrameRegs) : ChromaSource where
  u r c := Memory.read m (o.p1Addr.toNat + r * o.p1Stride.toNat + 2 * c)
  v r c := Memory.read m (o.p1Addr.toNat + r * o.p1Stride.toNat + 2 * c + 1)

/-- copy_nv_v: the even bytes of the shared plane are V, the odd ones U (41_repack.md R133). -/
def chromaNvV (m : Memory) (o : FrameRegs) : ChromaSource where
  u r c := Memory.read m (o.p1Addr.toNat + r * o.p1Stride.toNat + 2 * c + 1)
  v r c := Memory.read m (o.p1Addr.toNat + r * o.p1Stride.toNat + 2 * c)

/-- copy_luma (41_repack.md R125). -/
def copyLuma (src : Memory) (o : FrameRegs) (m : Memory) : Memory :=
  Memory.writeGrid m o.dstAddr.toNat o.width.toNat o.height.toNat (lumaByte src o)

/-- neutral_fill: both chroma regions become 128 (41_repack.md R129). -/
def neutralFill (o : FrameRegs) (m : Memory) : Memory :=
  Memory.writeRow m (o.dstAddr.toNat + o.ySize) (2 * o.uvSize) fun _ => 128#8

/-- The U region, then the V region (41_repack.md R130 to R133; layout of 30_encoding.md R86). -/
def copyChroma (src : ChromaSource) (o : FrameRegs) (m : Memory) : Memory :=
  Memory.writeGrid
    (Memory.writeGrid m (o.dstAddr.toNat + o.ySize) o.uvWidth o.uvHeight src.u)
    (o.dstAddr.toNat + o.ySize + o.uvSize) o.uvWidth o.uvHeight src.v

/-- The packed buffer: luma, then the fill or the copy of the format's class (41_repack.md R138). -/
def packedMemory (src : ChromaSource) (o : FrameRegs) (m : Memory) : Memory :=
  if o.fill m then neutralFill o (copyLuma m o m) else copyChroma src o (copyLuma m o m)

/-- Step 7: the dimension notice and the recorded dimensions (41_repack.md R121). -/
def updateRecordedDims (o : FrameRegs) (s : State) : State :=
  if dimChanged o s then
    { s with recW := o.width, recH := o.height, status := { s.status with diagDim := true } }
  else s

/-- The body of REPACK but for the notice of OTHER (41_repack.md R138): the recorded dimensions, DST_LEN, the packed
buffer and REPACK_RESULT. -/
def repackBody (src : ChromaSource) (o : FrameRegs) (s : State) : State :=
  { updateRecordedDims o s with
    dstLen := BitVec.ofNat 64 o.bufLen
    mem := packedMemory src o s.mem
    repackResult := repackResultOf o s.mem }

/-- unsupported_notice (41_repack.md R134). -/
def unsupportedNotice (s : State) : State :=
  { s with
    status := { s.status with diagUnsup := s.status.diagUnsup || noticeDue s }
    unsupCount := s.unsupCount + 1#64 }

/-- The engine has REPACK of format `fmt` in flight, and runs it (40_host_interface.md R108). -/
def withRepackInFlight (fmt : Byte) (s : State)
    (run : FrameRegs → Host.Outcome State Fault Refusal) : Host.Outcome State Fault Refusal :=
  match s.engine with
  | .busy (.repack o) => if o.fmt = fmt then run o else .refused .notEnabled
  | _ => .refused .notEnabled

/-- REPACK.P420: FMT 0, or 1 for the full-range tag (41_repack.md R130; both alike, 30_encoding.md R83). -/
def execRepackP420 (fullRange : Bool) (s : State) : Host.Outcome State Fault Refusal :=
  withRepackInFlight (if fullRange then 1#8 else 0#8) s fun o =>
    runCommand (.repack o) (repackBody (chromaP420 s.mem o) o) s

/-- REPACK.P422: FMT 2, or 3 for the full-range tag (41_repack.md R131; both alike, 30_encoding.md R83). -/
def execRepackP422 (fullRange : Bool) (s : State) : Host.Outcome State Fault Refusal :=
  withRepackInFlight (if fullRange then 3#8 else 2#8) s fun o =>
    runCommand (.repack o) (repackBody (chromaP422 s.mem o) o) s

/-- REPACK.NV_U: FMT 4 (41_repack.md R132). -/
def execRepackNvU (s : State) : Host.Outcome State Fault Refusal :=
  withRepackInFlight 4#8 s fun o => runCommand (.repack o) (repackBody (chromaNvU s.mem o) o) s

/-- REPACK.NV_V: FMT 5 (41_repack.md R133). -/
def execRepackNvV (s : State) : Host.Outcome State Fault Refusal :=
  withRepackInFlight 5#8 s fun o => runCommand (.repack o) (repackBody (chromaNvV s.mem o) o) s

/-- The memory part of REPACK.OTHER: no copy is attempted, both chroma regions are 128 (41_repack.md R129, R134). -/
def packedOther (o : FrameRegs) (m : Memory) : Memory := neutralFill o (copyLuma m o m)

/-- REPACK.OTHER: FMT 6 to 255 (41_repack.md R134). -/
def execRepackOther (fmt : Byte) (s : State) : Host.Outcome State Fault Refusal :=
  if supported fmt then .refused .notEnabled
  else withRepackInFlight fmt s fun o =>
    runCommand (.repack o) (fun t =>
      unsupportedNotice
        { updateRecordedDims o t with
          dstLen := BitVec.ofNat 64 o.bufLen
          mem := packedOther o t.mem
          repackResult := repackResultOf o t.mem }) s

/-- REPACK: the form that the snapshot's FMT selects (41_repack.md R138, 30_encoding.md R82). -/
def execRepack (s : State) : Host.Outcome State Fault Refusal :=
  match s.engine with
  | .busy (.repack o) =>
    match fmtClass o.fmt with
    | .p420 => execRepackP420 (o.fmt == 1#8) s
    | .p422 => execRepackP422 (o.fmt == 3#8) s
    | .nvU => execRepackNvU s
    | .nvV => execRepackNvV s
    | .other => execRepackOther o.fmt s
  | _ => .refused .notEnabled

end Sys2Proof.Machine
end

