-- ==== Sys2Proof/Machine/Dispatch.lean ====
section
/-! DEFINITION. One arm per constructor of Instr, each one direct call of its meaning. -/

namespace Sys2Proof.Machine

/-- What an instruction does (spec/opcode_table.json, one arm a row). -/
def exec (i : Instr) (s : State) : Host.Outcome State Fault Refusal :=
  match i with
  | .mmioRead slot => Sys2Proof.Machine.execMmioRead slot s
  | .mmioWrite slot value => Sys2Proof.Machine.execMmioWrite slot value s
  | .repack => Sys2Proof.Machine.execRepack s
  | .repackP420 fullRange => Sys2Proof.Machine.execRepackP420 fullRange s
  | .repackP422 fullRange => Sys2Proof.Machine.execRepackP422 fullRange s
  | .repackNvU => Sys2Proof.Machine.execRepackNvU s
  | .repackNvV => Sys2Proof.Machine.execRepackNvV s
  | .repackOther fmt => Sys2Proof.Machine.execRepackOther fmt s
  | .adpcmDecode => Sys2Proof.Machine.execAdpcmDecode s
  | .adpcmReset => Sys2Proof.Machine.execAdpcmReset s
  | .illegalOpcode op => Sys2Proof.Machine.execIllegalOpcode op s

end Sys2Proof.Machine
end

