-- ==== Sys2Proof/Machine/Inputs.lean ====
section
/-! DEFINITION. What arrives from outside the register transactions: host accesses to system memory (20_memory.md R69),
host bus accesses to the register window (40_host_interface.md R106), and how the next instruction is fetched and
placed (notes/assumptions/2.md). -/

namespace Sys2Proof.Machine

/-- Whether the platform answers a host access here as plain memory (20_memory.md R66 to R68). -/
def plainMemory (p : Platform) (a : Nat) : Bool := p.admits a && !p.sideEffectAt a

/-- Whether a command whose window of host duty is open writes the byte (20_memory.md R69). -/
def outputByte (a : Nat) (s : State) : Bool := s.unsynced.any fun c => c.liveWrites.contains a

/-- Whether a byte lies in the command's footprint (41_repack.md R124, 42_adpcm.md R170). -/
def Command.touches (c : Command) (a : Nat) : Bool := c.footprint.any fun sp => sp.contains a

/-- Whether the command in flight has the byte in its footprint. -/
def inFlightTouches (a : Nat) (s : State) : Bool :=
  match s.engine with
  | .idle => false
  | .busy c => c.touches a

/-- Whether a command whose window of host duty is open has the byte in its read set (20_memory.md R69). -/
def sourceByte (a : Nat) (s : State) : Bool := s.unsynced.any fun c => c.readSet.any fun sp => sp.contains a

/-- The host reads a byte of system memory (20_memory.md R69): a draw if a command whose window of host duty is open
writes the byte, whatever the platform does there; else memory's value where the platform answers as plain memory, and
where it answers at all if such a command only reads the byte. -/
def hostMemRead (a : Word) (s : State) : Host.Outcome State Fault Refusal :=
  if outputByte a.toNat s then .next (drawByte s)
  else if !(plainMemory s.platform a.toNat || (s.platform.admits a.toNat && sourceByte a.toNat s)) then
    .refused (.platformMemory a)
  else .next (returnWord ((Memory.read s.mem a.toNat).setWidth 64) s)

/-- The host stores a byte. -/
def storeByte (a : Nat) (b : Byte) (s : State) : State := { s with mem := Memory.write s.mem a b }

/-- HOST_RACE: the fault is recorded, and the command in flight, if the byte is in its footprint, computes free values
from now on. The byte is the host's, or free where the write is not ordered against a command's or the platform does
not answer as plain memory (20_memory.md R69; DESIGN CHOICE, notes/assumptions/14.md). -/
def raceWrite (a : Nat) (b : Byte) (s : State) : State :=
  recordFaults [.hostRace]
    { (if outputByte a s || !plainMemory s.platform a then drawSpan ⟨a, 1⟩ s else storeByte a b s) with
      raced := s.raced || inFlightTouches a s }

/-- The host writes a byte of system memory: HOST_RACE if it lies in the footprint of a command whose window of host
duty is open (20_memory.md R69, 60_exceptions.md R202). -/
def hostMemWrite (a : Word) (b : Byte) (s : State) : Host.Outcome State Fault Refusal :=
  if s.unsynced.any fun c => c.touches a.toNat then .next (raceWrite a.toNat b s)
  else if !plainMemory s.platform a.toNat then .refused (.platformMemory a)
  else .next (storeByte a.toNat b s)

/-- What a bus access to the register window is: a transaction on the slot at its offset, or a refusal by name
(40_host_interface.md R106). -/
inductive AccessMeaning
  | instr (i : Instr)
  | refused (r : Refusal)

/-- Where an access lies as seen from REG_BASE, negative below it (10_state.md R23, 40_host_interface.md R106). -/
def BusAccess.offset (a : BusAccess) (p : Platform) : Int := (a.addr.toNat : Int) - p.regBase.toNat

/-- 40_host_interface.md R106: 64 bits wide, inside the 0x100-byte window, at an offset that is a multiple of 8; any other
access is refused by name and offset. The spec gives neither the width of a host-bus address nor an alignment of
REG_BASE: addresses are 64 bits, REG_BASE is any of them, the window does not wrap past 2^64 - 1, and "naturally aligned"
is read as the alignment of the offset, which is that of the bus address only where REG_BASE is a multiple of 8 (DESIGN
CHOICE, notes/assumptions/25.md). -/
def accessMeaning (p : Platform) (a : BusAccess) : AccessMeaning :=
  if a.bytes ≠ 8 then .refused (.accessWidth (a.offset p) a.bytes)
  else if a.offset p < 0 ∨ 0x100 ≤ a.offset p then .refused (.accessOutsideWindow (a.offset p))
  else if a.offset p % 8 ≠ 0 then .refused (.accessMisaligned (a.offset p))
  else if a.write then .instr (.mmioWrite (BitVec.ofNat 5 ((a.offset p).toNat / 8)) a.data)
  else .instr (.mmioRead (BitVec.ofNat 5 ((a.offset p).toNat / 8)))

/-- The rest of a byte string of transactions goes back to the head of the agenda. -/
def pushTransactions (bytes : List Byte) (agenda : List Event) : List Event :=
  match bytes with
  | [] => agenda
  | _ :: _ => .transactions bytes :: agenda

/-- The instruction of the command in flight (40_host_interface.md R108). -/
def commandInstr : Command → Instr
  | .repack _ => .repack
  | .adpcmDecode _ => .adpcmDecode
  | .adpcmReset => .adpcmReset

/-- The engine has the command in flight and moves next: what `step` fetches for an engine instruction. -/
def placeCommand (c : Command) (s : State) : State :=
  { s with engine := .busy c, unsynced := c :: s.unsynced, raced := false, agenda := .engine :: s.agenda }

/-- The host sends these bytes next: what `step` fetches for a host transaction. -/
def placeTransactions (bytes : List Byte) (s : State) : State :=
  { s with agenda := .transactions bytes :: s.agenda }

/-- A CMD word where the machine fetches it: a legal opcode as the command in flight, an illegal one as the host
write of it, header 0x83 (30_encoding.md R91). -/
def placeCmdWord (v : Word) (s : State) : State :=
  match legalOpcode (opcodeField v) with
  | some op => placeCommand (snapshot op s) s
  | none => placeTransactions (0x83 :: bytesOfWord v) s

/-- The bits of an instruction where the machine fetches it next. -/
def placeEncoded (e : Encoded) (s : State) : State :=
  match e with
  | .hostBus bytes => placeTransactions bytes s
  | .cmd v => placeCmdWord v s
  | .cmdFormat v fmt => placeCmdWord v { s with frame := { s.frame with fmt := fmt } }

end Sys2Proof.Machine
end

