-- ==== Sys2Proof/Machine/Step.lean ====
section
/-! DEFINITION. One step of the machine: the agent whose move stands first in the agenda moves; when no move is left,
the engine has its turn (60_exceptions.md R208, 40_host_interface.md R108, notes/assumptions/3.md). -/

namespace Sys2Proof.Machine

/-- The engine's turn: the command in flight runs, and an idle engine does nothing (40_host_interface.md R108). -/
def engineTurn (s : State) : Host.Outcome State Fault Refusal :=
  match s.engine with
  | .idle => .next s
  | .busy c => exec (commandInstr c) s

/-- The host's turn with transactions to send: the first one is decoded and run (30_encoding.md R91). -/
def transactionTurn (bytes : List Byte) (s : State) : Host.Outcome State Fault Refusal :=
  match decodeHostBus bytes with
  | .ok i rest => exec i { s with agenda := pushTransactions rest s.agenda }
  | .refused e => .refused (.notATransaction e)

/-- The host's turn with one bus access (40_host_interface.md R106). -/
def accessTurn (a : BusAccess) (s : State) : Host.Outcome State Fault Refusal :=
  match accessMeaning s.platform a with
  | .instr i => exec i s
  | .refused r => .refused r

/-- The move of one event. -/
def eventTurn (e : Event) (s : State) : Host.Outcome State Fault Refusal :=
  match e with
  | .transactions bytes => transactionTurn bytes s
  | .access a => accessTurn a s
  | .memRead a => hostMemRead a s
  | .memWrite a b => hostMemWrite a b s
  | .reset => .next (assertReset s)
  | .engine => engineTurn s

/-- One step. -/
def step (s : State) : Host.Outcome State Fault Refusal :=
  match s.agenda with
  | [] => engineTurn s
  | e :: rest => eventTurn e { s with agenda := rest }

/-- `s` with the instruction of bits `w` where `step` fetches its next instruction (notes/assumptions/2.md). -/
def State.withFetchWord (s : State) (nbits w : Nat) : State := placeEncoded (tableEncoded nbits w) s

end Sys2Proof.Machine
end

