-- ==== Sys2Proof/Safety.lean ====
section
/-! DEFINITION. The terms in which statements about the machine are made: the invariant of every reachable state, when
a command in flight runs to its own effect, the address sets of the rules as sets, and the value of a binary32 word. -/

namespace Sys2Proof.Machine

/-- What holds of every state the machine reaches: memory is in canonical form and inside the address space
(20_memory.md R60), step_index is at most 88 (10_state.md R45), the snapshot equals the operand registers while
BUSY = 1 (40_host_interface.md R105), DONE is 0 then (R100), the command in flight is one the host has not
synchronised with (20_memory.md R69), and where the host has raced with it, it has a footprint and HOST_RACE is
recorded (60_exceptions.md R202). -/
structure State.Inv (s : State) : Prop where
  memWf      : Memory.wf s.mem
  memInSpace : ∀ c ∈ s.mem, c.1 < 2 ^ 64
  idxLeft    : s.chL.idx.toNat ≤ 88
  idxRight   : s.chR.idx.toNat ≤ 88
  snapFrame  : ∀ o, s.engine = .busy (.repack o) → o = s.frame
  snapAudio  : ∀ o, s.engine = .busy (.adpcmDecode o) → o = s.audio
  notDone    : ∀ c, s.engine = .busy c → s.status.done = false
  pending    : ∀ c, s.engine = .busy c → c ∈ s.unsynced
  raceFault  : s.raced = true → Fault.hostRace ∈ s.faults
  raceTarget : s.raced = true → ∃ c, s.engine = .busy c ∧ ∃ a, c.touches a = true

/-- The command runs to its own effect: its footprint stays inside memory and is admitted, without read side effects,
its write set does not meet its read set, and the host has not raced with it (40_host_interface.md R108, 20_memory.md
R66, R67, R69, R73). -/
structure Command.Ready (c : Command) (s : State) : Prop where
  inSpace     : c.overflows = false
  admitted    : c.admittedBy s.platform = true
  idempotent  : c.touchesSideEffects s.platform = false
  disjoint    : c.overlaps = false
  unraced     : s.raced = false

/-- The register transaction that is the host's next move, if it is one (30_encoding.md R91, 40_host_interface.md
R106). -/
def State.hostInstr (s : State) : Option Instr :=
  match s.agenda with
  | .transactions bytes :: _ =>
    match decodeHostBus bytes with
    | .ok i _ => some i
    | .refused _ => none
  | .access a :: _ =>
    match accessMeaning s.platform a with
    | .instr i => some i
    | .refused _ => none
  | _ => none

/-- Whether the next move is the engine's (40_host_interface.md R108, notes/assumptions/3.md). -/
def State.engineMoves (s : State) : Prop := s.agenda = [] ∨ s.agenda.head? = some .engine

/-- The write set as 41_repack.md R124 and 42_adpcm.md R170 give it. -/
def Command.WritesAt (c : Command) (a : Nat) : Prop :=
  match c with
  | .repack o => ∃ k, k < o.bufLen ∧ a = o.dstAddr.toNat + k
  | .adpcmDecode o => ∃ k, k < 8 * o.srcLen.toNat ∧ a = o.outAddr.toNat + k
  | .adpcmReset => False

/-- RD of REPACK as 41_repack.md R124 gives it. -/
def FrameRegs.ReadsAt (o : FrameRegs) (a : Nat) : Prop :=
  (o.p0Addr ≠ 0#64 ∧ ∃ r c, r < o.height.toNat ∧ c < o.width.toNat ∧
    a = o.p0Addr.toNat + r * o.p0Stride.toNat + c) ∨
  (0 < o.uvSize ∧ o.p1Addr ≠ 0#64 ∧ ∃ off ∈ o.probes, a = o.p1Addr.toNat + off) ∨
  (0 < o.uvSize ∧ o.p2Addr ≠ 0#64 ∧ semiplanar o.fmt = false ∧ ∃ off ∈ o.probes, a = o.p2Addr.toNat + off) ∨
  (0 < o.uvSize ∧ fmtClass o.fmt = .p420 ∧ ∃ r c, r < o.uvHeight ∧ c < o.uvWidth ∧
    ((o.p1Addr ≠ 0#64 ∧ a = o.p1Addr.toNat + r * o.p1Stride.toNat + c) ∨
     (o.p2Addr ≠ 0#64 ∧ a = o.p2Addr.toNat + r * o.p2Stride.toNat + c))) ∨
  (0 < o.uvSize ∧ fmtClass o.fmt = .p422 ∧ ∃ r c, r < o.uvHeight ∧ c < o.uvWidth ∧
    ((o.p1Addr ≠ 0#64 ∧ a = o.p1Addr.toNat + 2 * r * o.p1Stride.toNat + c) ∨
     (o.p2Addr ≠ 0#64 ∧ a = o.p2Addr.toNat + 2 * r * o.p2Stride.toNat + c))) ∨
  (0 < o.uvSize ∧ semiplanar o.fmt = true ∧ o.p1Addr ≠ 0#64 ∧ ∃ r j, r < o.uvHeight ∧ j < 2 * o.uvWidth ∧
    a = o.p1Addr.toNat + r * o.p1Stride.toNat + j)

/-- The read set of a command as 41_repack.md R124 and 42_adpcm.md R170 give it. -/
def Command.ReadsAt (c : Command) (a : Nat) : Prop :=
  match c with
  | .repack o => o.ReadsAt a
  | .adpcmDecode o => ∃ j, j < o.srcLen.toNat ∧ a = o.srcAddr.toNat + j
  | .adpcmReset => False

/-- FP: the set of addresses the command may access (41_repack.md R124, 42_adpcm.md R170). -/
def Command.InFootprint (c : Command) (a : Nat) : Prop := c.WritesAt a ∨ c.ReadsAt a

/-- The state of a lane after the first `n` bytes at `a`: the left fold of the step function over its nibbles
(42_adpcm.md R164). -/
def laneAfter (m : Memory) (a : Nat) (nibble : Byte → BitVec 4) (c : Channel) (n : Nat) : Channel :=
  (List.range n).foldl (fun ch j => ch.step (nibble (Memory.read m (a + j)))) c

/-- A lane fed the same nibble `n` times (42_adpcm.md R169). -/
def laneConstant (nibble : BitVec 4) (c : Channel) (n : Nat) : Channel :=
  (List.replicate n nibble).foldl Channel.step c

/-- The number a binary32 word stands for when it is +0.0 or normal: sign bit 31, exponent biased by 127 at [30:23],
fraction of 23 bits (30_encoding.md R88). -/
def binary32Value (w : BitVec 32) : ℚ :=
  if w = 0#32 then 0
  else (if w.getLsbD 31 then -1 else 1) * (1 + ((w.extractLsb' 0 23).toNat : ℚ) / 2 ^ 23) *
    2 ^ (((w.extractLsb' 23 8).toNat : ℤ) - 127)

end Sys2Proof.Machine
end

