-- ==== Sys2Proof/Certificates/Slice0/Obligations.lean ====
section
/-! DEFINITION. The statements for the provers, from the numbered rules of spec/. -/

open Sys2Proof Sys2Proof.Machine

/-! ### Reset and power-on -/

/-- 70_reset_and_hazards.md R220: whenever reset is asserted, every register takes the value of the reset column
(VERSION 1, every other 0), the engine is IDLE and irq is 0. -/
def Obligations.ResetGivesEveryRegisterItsResetValue : Prop :=
  ∀ (s : State) (rest : List Event), s.agenda = .reset :: rest →
    ∃ t, step s = .next t ∧ (∀ r : Reg, regWord r t = if r = .version then 1#64 else 0#64) ∧
      t.engine = .idle ∧ t.irq = false

/-- 70_reset_and_hazards.md R220, R224 at power-on, for the state the machine starts from. -/
def Obligations.PowerOnStateIsTheResetColumn : Prop :=
  (∀ r : Reg, regWord r State.reset = if r = .version then 1#64 else 0#64) ∧
    State.reset.engine = .idle ∧ State.reset.irq = false ∧ step State.reset = .next State.reset

/-- 70_reset_and_hazards.md R223 and R222: a reset while the engine is IDLE leaves every byte of system memory; a reset
while BUSY leaves every byte outside the write set of the aborted command, and that this is so where its reads have side
effects too is the model's choice (notes/assumptions/26.md). -/
def Obligations.ResetLeavesMemoryButTheAbortedWrites : Prop :=
  ∀ (s : State) (rest : List Event), s.agenda = .reset :: rest →
    ∃ t, step s = .next t ∧ (s.engine = .idle → t.mem = s.mem) ∧
      ∀ c, s.engine = .busy c → ∀ a, ¬ c.WritesAt a → Memory.read t.mem a = Memory.read s.mem a

/-- 70_reset_and_hazards.md R222: a reset while BUSY leaves each byte of memory in the write set of the command in flight
with a draw of its own, the k-th with the k-th draw from the counter on, whatever the command would have ended with. -/
def Obligations.ResetDrawsTheAbortedWrites : Prop :=
  ∀ (s : State) (rest : List Event) (c : Command), s.agenda = .reset :: rest → s.engine = .busy c →
    ∃ t, step s = .next t ∧ t.draws = s.draws + min c.writeSet.len (2 ^ 64 - c.writeSet.base) ∧
      ∀ k, k < c.writeSet.len → c.writeSet.base + k < 2 ^ 64 →
        Memory.read t.mem (c.writeSet.base + k) = Config.freeByte (s.draws + k)

/-- The invariant holds of the state the machine starts from. -/
def Obligations.InvariantAtReset : Prop := State.reset.Inv

/-- The invariant, with 10_state.md R45 and 40_host_interface.md R105 in it, is kept by every step from every state. -/
def Obligations.EveryStepKeepsTheInvariant : Prop :=
  ∀ s t : State, s.Inv → step s = .next t → t.Inv

/-- No step changes the OPEN parameters (00_scope.md R5). -/
def Obligations.NoStepChangesThePlatform : Prop :=
  ∀ s t : State, step s = .next t → t.platform = s.platform

/-! ### Encoding -/

/-- Decoding the encoding of a well-formed instruction gives it back, in all three formats, with every operand. -/
def Obligations.DecodeOfEncode : Prop :=
  ∀ i : Instr, i.wellFormed = true → decode (encode i) = .ok i []

/-- A host transaction has one byte form: bytes that decode to an instruction and leave nothing are its encoding
(30_encoding.md R91). -/
def Obligations.EncodeOfDecodedTransaction : Prop :=
  ∀ (bytes : List Byte) (i : Instr), decodeHostBus bytes = .ok i [] → encode i = .hostBus bytes

/-- A CMD word decodes by its OPCODE alone, whatever bits [63:8] hold (30_encoding.md R80, R81), and with FORMAT 1 and 0, 3
and 2 select the same class, the classes being those of R82. -/
def Obligations.CommandWordDecodesByOpcodeAlone : Prop :=
  (∀ v w : Word, (∀ i, i < 8 → v.getLsbD i = w.getLsbD i) → decodeCmd v = decodeCmd w) ∧
  (∀ f : Byte, fmtClass f = if f.toNat ≤ 1 then .p420 else if f.toNat ≤ 3 then .p422
    else if f.toNat = 4 then .nvU else if f.toNat = 5 then .nvV else .other)

/-- The worked encodings of 30_encoding.md R91 and 95_test_vectors.md decode to what they stand for. -/
def Obligations.WorkedEncodingsDecode : Prop :=
  decode (.hostBus [0x83, 0x01, 0, 0, 0, 0, 0, 0, 0]) = .ok (.mmioWrite 3 1) [] ∧
  decode (.hostBus [0x02]) = .ok (.mmioRead 2) [] ∧
  decode (.hostBus [0x8A, 0x40, 0, 0, 0, 0xFF, 0xFF, 0xFF, 0xFF]) = .ok (.mmioWrite 10 0xFFFFFFFF00000040) [] ∧
  decode (.cmd 0x0000000000000107) = .ok (.illegalOpcode 0x07) [] ∧
  decode (.cmd 0xABCDEF0000000103) = .ok .adpcmReset []

/-! ### The step -/

/-- When the host's next bytes decode to an instruction, the step is that instruction's effect on the state whose agenda
goes on after it (30_encoding.md R91). -/
def Obligations.StepRunsTheDecodedTransaction : Prop :=
  ∀ (s : State) (bytes tail : List Byte) (rest : List Event) (i : Instr),
    s.agenda = .transactions bytes :: rest → decodeHostBus bytes = .ok i tail →
    step s = exec i { s with agenda := if tail = [] then rest else .transactions tail :: rest }

/-- The engine's turn, given by the agenda or because nothing is left in it, runs the command in flight; an idle engine
does nothing (40_host_interface.md R108). -/
def Obligations.StepRunsTheCommandInFlight : Prop :=
  ∀ (s : State) (rest : List Event), (s.agenda = .engine :: rest ∨ (s.agenda = [] ∧ rest = [])) →
    (s.engine = .idle → step s = .next { s with agenda := rest }) ∧
    (∀ o, s.engine = .busy (.repack o) → step s = exec .repack { s with agenda := rest }) ∧
    (∀ o, s.engine = .busy (.adpcmDecode o) → step s = exec .adpcmDecode { s with agenda := rest }) ∧
    (s.engine = .busy .adpcmReset → step s = exec .adpcmReset { s with agenda := rest })

/-- 40_host_interface.md R108 "Enabled when": a command's instruction, and each form of REPACK, is refused by name in a
state that does not have it in flight, and so is ILLEGAL_OPCODE with a legal opcode (R103). No step raises this. -/
def Obligations.CommandNotInFlightIsRefused : Prop :=
  ∀ (s : State) (i : Instr),
    ((i = .repack ∧ ∀ o, s.engine ≠ .busy (.repack o)) ∨
     ((∃ f, i = repackForm f ∧ ∀ o, s.engine = .busy (.repack o) → o.fmt ≠ f)) ∨
     (∃ f : Byte, i = .repackOther f ∧ f.toNat ≤ 5) ∨
     (i = .adpcmDecode ∧ ∀ o, s.engine ≠ .busy (.adpcmDecode o)) ∨
     (i = .adpcmReset ∧ s.engine ≠ .busy .adpcmReset) ∨
     (∃ op : Byte, i = .illegalOpcode op ∧ 1 ≤ op.toNat ∧ op.toNat ≤ 3)) →
    exec i s = .refused .notEnabled

/-- 40_host_interface.md R106: a host access is refused, by name and offset, unless it is 64 bits wide, in the 0x100-byte
window at REG_BASE, at an offset that is a multiple of 8; such an access runs the transaction on the slot at that offset.
That REG_BASE is any
64-bit address, that the offset and not the bus address is what is aligned, and that the window does not wrap past
2^64 - 1, is the model's choice (notes/assumptions/25.md). -/
def Obligations.OnlyAlignedWordAccessesReachTheWindow : Prop :=
  ∀ (s : State) (a : BusAccess) (rest : List Event), s.agenda = .access a :: rest →
    (∀ k : BitVec 5, a.bytes = 8 → a.addr.toNat = s.platform.regBase.toNat + 8 * k.toNat →
      step s = exec (if a.write then .mmioWrite k a.data else .mmioRead k) { s with agenda := rest }) ∧
    ((¬ ∃ k : BitVec 5, a.bytes = 8 ∧ a.addr.toNat = s.platform.regBase.toNat + 8 * k.toNat) →
      let offset : Int := (a.addr.toNat : Int) - s.platform.regBase.toNat
      ∃ r, step s = .refused r ∧
        ((r = .accessWidth offset a.bytes ∧ a.bytes ≠ 8) ∨
         (r = .accessOutsideWindow offset ∧ (offset < 0 ∨ 0x100 ≤ offset)) ∨
         (r = .accessMisaligned offset ∧ offset % 8 ≠ 0)))

/-! ### Register reads -/

/-- 40_host_interface.md R100: MMIO_READ returns the register's current value and changes nothing else of the block. Its
one mark on the model is that a STATUS read with BUSY = 0 closes the window of host duty (20_memory.md R71). -/
def Obligations.ReadReturnsTheRegister : Prop :=
  ∀ (s : State) (k : BitVec 5), (s.busy = false ∨ (k ≠ 21#5 ∧ k ≠ 22#5)) →
    exec (.mmioRead k) s = .next { s with
      readData := regWord (slotReg k) s
      unsynced := if k = 2#5 ∧ s.busy = false then [] else s.unsynced }

/-- 70_reset_and_hazards.md R228: while BUSY = 1 a read of CH_L or CH_R returns a draw. -/
def Obligations.ChannelReadWhileBusyIsADraw : Prop :=
  ∀ (s : State) (k : BitVec 5), s.busy = true → (k = 21#5 ∨ k = 22#5) →
    exec (.mmioRead k) s = .next { s with readData := Config.freeWord s.draws, draws := s.draws + 1 }

/-- 10_state.md R42, R25, R28: reserved fields, CMD and the slots 0xB8 to 0xF8 read as 0, and VERSION reads 1, in every
state (but for the draw of a CH_L or CH_R read while BUSY, R228). -/
def Obligations.ReservedBitsReadZero : Prop :=
  ∀ (s : State) (k : BitVec 5), (s.busy = false ∨ (k ≠ 21#5 ∧ k ≠ 22#5)) → ∃ t, exec (.mmioRead k) s = .next t ∧
    (k = 0#5 → t.readData = 1#64) ∧ (k = 1#5 → t.readData >>> 1 = 0#64) ∧ (k = 2#5 → t.readData >>> 7 = 0#64) ∧
    (k = 3#5 → t.readData = 0#64) ∧ ((k = 4#5 ∨ k = 5#5) → t.readData >>> 16 = 0#64) ∧
    ((k = 6#5 ∨ k = 14#5) → t.readData >>> 8 = 0#64) ∧
    ((k = 8#5 ∨ k = 10#5 ∨ k = 12#5 ∨ k = 16#5 ∨ k = 19#5) → t.readData >>> 32 = 0#64) ∧
    ((k = 21#5 ∨ k = 22#5) → t.readData >>> 23 = 0#64) ∧ (23 ≤ k.toNat → t.readData = 0#64)

/-- 10_state.md R24 to R41 and 30_encoding.md R85: slot by slot, the word a register holds for a host read, and the bits at
which its fields stand. -/
def Obligations.RegisterMapHoldsTheFields : Prop :=
  ∀ s : State,
    let word := fun k : BitVec 5 => (regWord (slotReg k) s).toNat
    word 0#5 = 1 ∧ word 1#5 = s.irqEn.toNat ∧
    word 2#5 = s.busy.toNat + 2 * s.status.done.toNat + 4 * s.status.errCmd.toNat +
      8 * s.status.errBusy.toNat + 16 * s.status.errAddr.toNat + 32 * s.status.diagUnsup.toNat +
      64 * s.status.diagDim.toNat ∧
    word 3#5 = 0 ∧ word 4#5 = s.frame.width.toNat ∧ word 5#5 = s.frame.height.toNat ∧
    word 6#5 = s.frame.fmt.toNat ∧
    word 7#5 = s.frame.p0Addr.toNat ∧ word 8#5 = s.frame.p0Stride.toNat ∧
    word 9#5 = s.frame.p1Addr.toNat ∧ word 10#5 = s.frame.p1Stride.toNat ∧
    word 11#5 = s.frame.p2Addr.toNat ∧ word 12#5 = s.frame.p2Stride.toNat ∧
    word 13#5 = s.frame.dstAddr.toNat ∧
    word 14#5 = s.repackResult.uMissing.toNat + 2 * s.repackResult.vMissing.toNat +
      4 * s.repackResult.uSuspect.toNat + 8 * s.repackResult.vSuspect.toNat +
      16 * s.repackResult.chromaFilled.toNat + 32 * s.repackResult.lumaAbsent.toNat +
      64 * s.repackResult.oddDim.toNat + 128 * s.repackResult.unsupported.toNat ∧
    word 15#5 = s.dstLen.toNat ∧ word 16#5 = s.recW.toNat + 2 ^ 16 * s.recH.toNat ∧
    word 17#5 = s.unsupCount.toNat ∧
    word 18#5 = s.audio.srcAddr.toNat ∧ word 19#5 = s.audio.srcLen.toNat ∧ word 20#5 = s.audio.outAddr.toNat ∧
    word 21#5 = s.chL.pred.toNat + 2 ^ 16 * s.chL.idx.toNat ∧
    word 22#5 = s.chR.pred.toNat + 2 ^ 16 * s.chR.idx.toNat ∧
    ∀ k : BitVec 5, 23 ≤ k.toNat → word k = 0

/-! ### Register writes -/

/-- 40_host_interface.md R102: while BUSY = 1 a write to any slot but CTRL and STATUS changes nothing but ERR_BUSY, so the
command in flight keeps its snapshot; a write to CTRL or STATUS acts as it does while IDLE (R101). -/
def Obligations.WriteWhileBusyIsDropped : Prop :=
  ∀ (s : State) (k : BitVec 5) (v : Word), s.busy = true →
    (k ≠ 1#5 → k ≠ 2#5 →
      exec (.mmioWrite k v) s = .next { s with status := { s.status with errBusy := true } }) ∧
    (k = 1#5 → exec (.mmioWrite k v) s = .next { s with irqEn := v.getLsbD 0 }) ∧
    (k = 2#5 → exec (.mmioWrite k v) s = .next { s with status :=
      { done := s.status.done && !v.getLsbD 1
        errCmd := s.status.errCmd && !v.getLsbD 2
        errBusy := s.status.errBusy && !v.getLsbD 3
        errAddr := s.status.errAddr && !v.getLsbD 4
        diagUnsup := s.status.diagUnsup && !v.getLsbD 5
        diagDim := s.status.diagDim && !v.getLsbD 6 } })

/-- 40_host_interface.md R101 and 10_state.md R29 to R33, R38: a write to an RW operand register while IDLE stores the low bits
of the value in that register's field, and changes nothing else at all. -/
def Obligations.OperandWritesStoreTheirField : Prop :=
  ∀ (s : State) (v : Word), s.busy = false →
    (∃ x, exec (.mmioWrite 4#5 v) s = .next { s with frame := { s.frame with width := x } } ∧
      x.toNat = v.toNat % 2 ^ 16) ∧
    (∃ x, exec (.mmioWrite 5#5 v) s = .next { s with frame := { s.frame with height := x } } ∧
      x.toNat = v.toNat % 2 ^ 16) ∧
    (∃ x, exec (.mmioWrite 6#5 v) s = .next { s with frame := { s.frame with fmt := x } } ∧
      x.toNat = v.toNat % 2 ^ 8) ∧
    exec (.mmioWrite 7#5 v) s = .next { s with frame := { s.frame with p0Addr := v } } ∧
    (∃ x, exec (.mmioWrite 8#5 v) s = .next { s with frame := { s.frame with p0Stride := x } } ∧
      x.toNat = v.toNat % 2 ^ 32) ∧
    exec (.mmioWrite 9#5 v) s = .next { s with frame := { s.frame with p1Addr := v } } ∧
    (∃ x, exec (.mmioWrite 10#5 v) s = .next { s with frame := { s.frame with p1Stride := x } } ∧
      x.toNat = v.toNat % 2 ^ 32) ∧
    exec (.mmioWrite 11#5 v) s = .next { s with frame := { s.frame with p2Addr := v } } ∧
    (∃ x, exec (.mmioWrite 12#5 v) s = .next { s with frame := { s.frame with p2Stride := x } } ∧
      x.toNat = v.toNat % 2 ^ 32) ∧
    exec (.mmioWrite 13#5 v) s = .next { s with frame := { s.frame with dstAddr := v } } ∧
    exec (.mmioWrite 18#5 v) s = .next { s with audio := { s.audio with srcAddr := v } } ∧
    (∃ x, exec (.mmioWrite 19#5 v) s = .next { s with audio := { s.audio with srcLen := x } } ∧
      x.toNat = v.toNat % 2 ^ 32) ∧
    exec (.mmioWrite 20#5 v) s = .next { s with audio := { s.audio with outAddr := v } }

/-- The frame of MMIO_WRITE to a slot other than CMD: no other register, no byte of memory and not the engine phase
changes; of STATUS, when it is not the register written, no bit but ERR_BUSY changes, which rises exactly when the write
is dropped because BUSY = 1 (R101, R102). -/
def Obligations.WriteLeavesOtherRegisters : Prop :=
  ∀ (s : State) (k : BitVec 5) (v : Word), k ≠ 3#5 →
    ∃ t, exec (.mmioWrite k v) s = .next t ∧
      (∀ j : BitVec 5, j ≠ k → j ≠ 2#5 → regWord (slotReg j) t = regWord (slotReg j) s) ∧
      (k ≠ 2#5 → t.status = { s.status with errBusy := s.status.errBusy || (s.busy && k != 1#5) }) ∧
      t.mem = s.mem ∧ t.engine = s.engine ∧ t.platform = s.platform ∧ t.faults = s.faults ∧ t.raced = s.raced ∧
      t.unsynced = s.unsynced ∧ t.agenda = s.agenda ∧ t.readData = s.readData ∧ t.draws = s.draws

/-- 10_state.md R42 and R24: a write to an RO register or a reserved slot while IDLE changes nothing at all. -/
def Obligations.ReadOnlyAndReservedIgnoreWrites : Prop :=
  ∀ (s : State) (k : BitVec 5) (v : Word), s.busy = false →
    (k = 0#5 ∨ k = 14#5 ∨ k = 15#5 ∨ k = 16#5 ∨ k = 17#5 ∨ 23 ≤ k.toNat) → exec (.mmioWrite k v) s = .next s

/-- 10_state.md R27, R26: in either phase a write of STATUS clears exactly the W1C bits whose bit in the value is 1, and a
write of CTRL stores IRQ_EN. -/
def Obligations.StatusIsWriteOneToClearAndControlIsWritable : Prop :=
  (∀ (s : State) (v : Word), exec (.mmioWrite 2#5 v) s = .next { s with status :=
    { done := s.status.done && !v.getLsbD 1
      errCmd := s.status.errCmd && !v.getLsbD 2
      errBusy := s.status.errBusy && !v.getLsbD 3
      errAddr := s.status.errAddr && !v.getLsbD 4
      diagUnsup := s.status.diagUnsup && !v.getLsbD 5
      diagDim := s.status.diagDim && !v.getLsbD 6 } }) ∧
  (∀ (s : State) (v : Word), exec (.mmioWrite 1#5 v) s = .next { s with irqEn := v.getLsbD 0 })

/-- 10_state.md R41: a host write of CH_L or CH_R while IDLE stores `PRED <- v[15:0]` and `IDX <- min(v[22:16], 88)`, read
back as `(IDX << 16) | PRED`, and leaves the other channel. -/
def Obligations.ChannelWriteIsLegalised : Prop :=
  ∀ (s : State) (v : Word), s.busy = false →
    (∃ t, exec (.mmioWrite 21#5 v) s = .next t ∧ t = { s with chL := t.chL } ∧
      t.chL.pred.toNat = v.toNat % 2 ^ 16 ∧ t.chL.idx.toNat = min (v.toNat / 2 ^ 16 % 2 ^ 7) 88) ∧
    (∃ t, exec (.mmioWrite 22#5 v) s = .next t ∧ t = { s with chR := t.chR } ∧
      t.chR.pred.toNat = v.toNat % 2 ^ 16 ∧ t.chR.idx.toNat = min (v.toNat / 2 ^ 16 % 2 ^ 7) 88)

/-! ### Command acceptance and the interrupt -/

/-- 40_host_interface.md R103: with BUSY = 0 a CMD write of a legal opcode clears DONE and makes the engine BUSY with a copy
of the opcode's operand registers; of an illegal opcode it sets ERR_CMD and DONE. Nothing else of the block changes, and
bits [63:8] do not matter. ILLEGAL_OPCODE, the table's row, does the same as the host's write of it. -/
def Obligations.CommandWriteAcceptsOrRejects : Prop :=
  ∀ (s : State) (v : Word), s.busy = false →
    (∀ c, (v.toNat % 256 = 1 ∧ c = .repack s.frame) ∨ (v.toNat % 256 = 2 ∧ c = .adpcmDecode s.audio) ∨
        (v.toNat % 256 = 3 ∧ c = .adpcmReset) →
      exec (.mmioWrite 3#5 v) s = .next { s with
        status := { s.status with done := false }, engine := .busy c, unsynced := c :: s.unsynced
        raced := false }) ∧
    (v.toNat % 256 = 0 ∨ 4 ≤ v.toNat % 256 →
      exec (.mmioWrite 3#5 v) s = .next { s with status := { s.status with errCmd := true, done := true } } ∧
      exec (.illegalOpcode (v.setWidth 8)) s =
        .next { s with status := { s.status with errCmd := true, done := true } })

/-- 10_state.md R27, 70_reset_and_hazards.md R229: of all instructions only a write of STATUS clears an error or DIAG bit; for
a command that met a fault this rests on the model's choice of what it leaves (notes/assumptions/14.md). -/
def Obligations.OnlyAStatusWriteClearsAStickyBit : Prop :=
  ∀ (i : Instr) (s t : State), exec i s = .next t → (∀ v, i ≠ .mmioWrite 2#5 v) →
    (s.status.errCmd = true → t.status.errCmd = true) ∧ (s.status.errBusy = true → t.status.errBusy = true) ∧
    (s.status.errAddr = true → t.status.errAddr = true) ∧
    (s.status.diagUnsup = true → t.status.diagUnsup = true) ∧ (s.status.diagDim = true → t.status.diagDim = true)

/-- 60_exceptions.md R203: while BUSY = 1 a CMD write of an illegal opcode gives ERR_BUSY and nothing else. -/
def Obligations.BusyCheckComesBeforeTheOpcode : Prop :=
  ∀ (s : State) (op : Byte), s.busy = true → (op.toNat = 0 ∨ 4 ≤ op.toNat) →
    exec (.illegalOpcode op) s = .next { s with status := { s.status with errBusy := true } }

/-- 10_state.md R44, 60_exceptions.md R204: irq is IRQ_EN AND DONE. It is set, when IRQ_EN is 1, by every command completion
(one that ends with ERR_ADDR, and any whose footprint is admitted, 40_host_interface.md R108) and by every ERR_CMD
rejection; it is cleared by a write of 1 to STATUS bit 1, by the acceptance of a command and by IRQ_EN = 0. That a command
which met OVERLAP, NONIDEMPOTENT or a race completes, so with DONE set and irq raised, is the model's choice
(notes/assumptions/14.md), and so is that ERR_ADDR and admission come before those faults (notes/assumptions/8.md). -/
def Obligations.InterruptFollowsDone : Prop :=
  (∀ s : State, s.irq = (s.irqEn && s.status.done)) ∧
  (∀ (s : State) (c : Command), s.engine = .busy c →
    ((∃ a, c.InFootprint a ∧ 2 ^ 64 - 1 < a) ∨ ∀ a, c.InFootprint a → s.platform.admits a = true) →
    ∃ t, exec (commandInstr c) s = .next t ∧ t.irq = s.irqEn) ∧
  (∀ (s : State) (op : Byte), s.busy = false → (op.toNat = 0 ∨ 4 ≤ op.toNat) →
    ∃ t, exec (.illegalOpcode op) s = .next t ∧ t.irq = s.irqEn) ∧
  (∀ (s : State) (v : Word), s.busy = false → (v.toNat % 256 = 0 ∨ 4 ≤ v.toNat % 256) →
    ∃ t, exec (.mmioWrite 3#5 v) s = .next t ∧ t.irq = s.irqEn) ∧
  (∀ (s : State) (v : Word), v.getLsbD 1 = true → ∃ t, exec (.mmioWrite 2#5 v) s = .next t ∧ t.irq = false) ∧
  (∀ (s : State) (v : Word), s.busy = false → (v.toNat % 256 = 1 ∨ v.toNat % 256 = 2 ∨ v.toNat % 256 = 3) →
    ∃ t, exec (.mmioWrite 3#5 v) s = .next t ∧ t.irq = false) ∧
  (∀ (s : State) (v : Word), v.getLsbD 0 = false → ∃ t, exec (.mmioWrite 1#5 v) s = .next t ∧ t.irq = false)

/-! ### The engine's step -/

/-- 41_repack.md R124 and 42_adpcm.md R170: a command whose footprint holds an address above 2^64 - 1 makes no memory access
and changes no register but ERR_ADDR, and completes with DONE. -/
def Obligations.FootprintOverflowEndsWithErrAddr : Prop :=
  ∀ (s : State) (c : Command), s.engine = .busy c → (∃ a, c.InFootprint a ∧ 2 ^ 64 - 1 < a) →
    exec (commandInstr c) s = .next { s with
      engine := .idle, status := { s.status with errAddr := true, done := true }, raced := false }

/-- 20_memory.md R67: a footprint inside the address space that holds an unadmitted address gives the engine no completion
step: nothing changes, BUSY stays 1. -/
def Obligations.UnadmittedFootprintSticks : Prop :=
  ∀ (s : State) (c : Command), s.engine = .busy c → (∀ a, c.InFootprint a → a ≤ 2 ^ 64 - 1) →
    (∃ a, c.InFootprint a ∧ s.platform.admits a = false) → exec (commandInstr c) s = .next s

/-- 20_memory.md R67: a stuck engine stays BUSY with the same command and DONE is never set, whatever step is taken, unless
the step is a reset. -/
def Obligations.OnlyResetEndsAStuckCommand : Prop :=
  ∀ (s t : State) (c : Command), s.Inv → s.engine = .busy c → c.overflows = false →
    c.admittedBy s.platform = false → s.agenda.head? ≠ some .reset → step s = .next t →
    t.engine = .busy c ∧ t.status.done = false

/-- 60_exceptions.md R202: a fault is recorded, never cleared, and never final: no step ends the run with a fault, and
every next state's record extends the one before. -/
def Obligations.FaultsAreNeverFinalAndNeverCleared : Prop :=
  ∀ s : State, (∀ f, step s ≠ .fault f) ∧ ∀ t, step s = .next t → ∃ new, t.faults = new ++ s.faults

/-- 20_memory.md R73, R66, 60_exceptions.md R202: a command whose footprint is admitted runs, and records OVERLAP exactly
when its write set meets its read set and NONIDEMPOTENT exactly when its footprint reaches memory with read side effects.
Whatever faults there are, it completes (notes/assumptions/14.md), with this frame: no byte of memory outside its write set
changes but a footprint byte with read side effects, and every register the rules give without the bytes read is as they
give it. -/
def Obligations.AdmittedCommandRecordsItsFaultsAndCompletes : Prop :=
  ∀ (s : State) (c : Command), s.engine = .busy c →
    (∀ a, c.InFootprint a → a ≤ 2 ^ 64 - 1 ∧ s.platform.admits a = true) →
    ∃ t new, exec (commandInstr c) s = .next t ∧ t.faults = new ++ s.faults ∧
      (Fault.overlap ∈ new ↔ ∃ a, c.WritesAt a ∧ c.ReadsAt a) ∧
      (Fault.nonIdempotent ∈ new ↔ ∃ a, c.InFootprint a ∧ s.platform.sideEffectAt a = true) ∧
      Fault.hostRace ∉ new ∧
      (∀ a, ¬ c.WritesAt a → ¬ (c.InFootprint a ∧ s.platform.sideEffectAt a = true) →
        Memory.read t.mem a = Memory.read s.mem a) ∧
      t = { s with
        engine := .idle
        raced := false
        status := { s.status with
          done := true, diagUnsup := t.status.diagUnsup, diagDim := t.status.diagDim }
        recW := t.recW, recH := t.recH, dstLen := t.dstLen, unsupCount := t.unsupCount
        repackResult := t.repackResult, chL := t.chL, chR := t.chR
        mem := t.mem, draws := t.draws, faults := t.faults } ∧
      (∀ o, c = .repack o →
        t.status.diagDim = (s.status.diagDim || decide (¬ (o.width = s.recW ∧ o.height = s.recH))) ∧
        t.recW = o.width ∧ t.recH = o.height ∧ t.dstLen = BitVec.ofNat 64 o.bufLen ∧
        t.repackResult = repackResultWith o t.repackResult.uSuspect t.repackResult.vSuspect ∧
        (t.repackResult.uSuspect = true → o.uProbed = true) ∧ (t.repackResult.vSuspect = true → o.vProbed = true) ∧
        t.chL = s.chL ∧ t.chR = s.chR ∧
        t.unsupCount = s.unsupCount + (if supported o.fmt then 0#64 else 1#64) ∧
        t.status.diagUnsup = (s.status.diagUnsup || (!supported o.fmt && noticeDue s))) ∧
      ((∀ o, c ≠ .repack o) → t.status.diagDim = s.status.diagDim ∧ t.status.diagUnsup = s.status.diagUnsup ∧
        t.recW = s.recW ∧ t.recH = s.recH ∧ t.dstLen = s.dstLen ∧ t.unsupCount = s.unsupCount ∧
        t.repackResult = s.repackResult) ∧
      (c = .adpcmReset → t.chL = ⟨0#16, 0#7⟩ ∧ t.chR = ⟨0#16, 0#7⟩)

/-- The conditions of Ready are those of the rules, over the sets of 41_repack.md R124 and 42_adpcm.md R170; the last is that
the host has kept its duty of 20_memory.md R69. -/
def Obligations.ReadyIsWhatTheRulesAsk : Prop :=
  ∀ (c : Command) (s : State), c.Ready s ↔
    (∀ a, c.InFootprint a → a ≤ 2 ^ 64 - 1 ∧ s.platform.admits a = true ∧ s.platform.sideEffectAt a = false) ∧
    (∀ a, ¬ (c.WritesAt a ∧ c.ReadsAt a)) ∧ s.raced = false

/-- 40_host_interface.md R108, 70_reset_and_hazards.md R230: with no host step left, a command that is ready completes in the
next step: the engine is IDLE, STATUS reads BUSY 0 and DONE 1. -/
def Obligations.ReadyCommandCompletesWhenTheHostIsQuiet : Prop :=
  ∀ (s : State) (c : Command), s.agenda = [] → s.engine = .busy c → c.Ready s →
    ∃ t, step s = .next t ∧ t.engine = .idle ∧ (regWord .status t).getLsbD 0 = false ∧
      (regWord .status t).getLsbD 1 = true

/-- 10_state.md R46: no command's behaviour depends on a flag. From states that differ in CTRL, STATUS and REPACK_RESULT
alone a command in flight leaves states that differ in those alone: it sets the same bits of STATUS, whatever they were
(DONE among them unless it is stuck), and a REPACK that makes its accesses leaves the same REPACK_RESULT. That a stuck
command answers the same state is the model's form (notes/assumptions/7.md), and that a command which met OVERLAP,
NONIDEMPOTENT or a race completes with DONE, and what it leaves, is the model's choice (notes/assumptions/14.md, and
notes/assumptions/8.md for the order of the checks). -/
def Obligations.NoCommandReadsAFlag : Prop :=
  ∀ (s : State) (c : Command), s.engine = .busy c → ∃ (t : State) (set : Status),
    exec (commandInstr c) s = .next t ∧ set.done = (c.overflows || c.admittedBy s.platform) ∧
    ∀ (irqEn : Bool) (st : Status) (rr : RepackResult),
      exec (commandInstr c) { s with irqEn := irqEn, status := st, repackResult := rr } = .next { t with
        irqEn := irqEn
        status :=
          { done := st.done || set.done
            errCmd := st.errCmd || set.errCmd
            errBusy := st.errBusy || set.errBusy
            errAddr := st.errAddr || set.errAddr
            diagUnsup := st.diagUnsup || set.diagUnsup
            diagDim := st.diagDim || set.diagDim }
        repackResult := match c with
          | .repack _ => if c.overflows || !c.admittedBy s.platform then rr else t.repackResult
          | .adpcmDecode _ => rr
          | .adpcmReset => rr }

/-! ### REPACK -/

/-- 41_repack.md R138, 30_encoding.md R82: REPACK is the form its snapshot's FMT selects. -/
def Obligations.RepackIsTheFormOfItsFormat : Prop :=
  ∀ (s : State) (o : FrameRegs), s.engine = .busy (.repack o) → exec .repack s = exec (repackForm o.fmt) s

/-- 41_repack.md R121, R122, R126, R136 for the supported formats: every register a REPACK writes, and that it writes no
other. REPACK_RESULT holds the quantities of R123, R125, R126, R128, R129. -/
def Obligations.SupportedRepackWritesItsRegisters : Prop :=
  ∀ (s : State) (o : FrameRegs) (i : Instr), s.engine = .busy (.repack o) → (Command.repack o).Ready s →
    o.fmt.toNat ≤ 5 → (i = .repack ∨ i = repackForm o.fmt) →
    ∃ m, exec i s = .next { s with
      engine := .idle
      status := { s.status with
        done := true
        diagDim := s.status.diagDim || decide (¬ (o.width = s.recW ∧ o.height = s.recH)) }
      recW := o.width
      recH := o.height
      dstLen := BitVec.ofNat 64
        (o.width.toNat * o.height.toNat + 2 * ((o.width.toNat / 2) * (o.height.toNat / 2)))
      repackResult :=
        { uMissing := decide (o.p1Addr = 0#64)
          vMissing := decide (o.p2Addr = 0#64 ∧ o.fmt ≠ 4#8 ∧ o.fmt ≠ 5#8)
          uSuspect := o.uSuspect s.mem
          vSuspect := o.vSuspect s.mem
          chromaFilled := decide (o.p1Addr = 0#64 ∨ (o.p2Addr = 0#64 ∧ o.fmt ≠ 4#8 ∧ o.fmt ≠ 5#8) ∨
            o.uSuspect s.mem = true ∨ o.vSuspect s.mem = true)
          lumaAbsent := decide (o.p0Addr = 0#64)
          oddDim := decide (o.width.toNat % 2 = 1 ∨ o.height.toNat % 2 = 1)
          unsupported := false }
      mem := m }

/-- 41_repack.md R134: REPACK.OTHER, FMT 6 to 255, copies the luma, fills both chroma regions with 128, counts the call and
raises DIAG_UNSUP when the count was a multiple of DIAG_PERIOD; every register it writes, and that it writes no other. -/
def Obligations.OtherRepackCountsAndNotifies : Prop :=
  ∀ (s : State) (o : FrameRegs) (i : Instr), s.engine = .busy (.repack o) → (Command.repack o).Ready s →
    6 ≤ o.fmt.toNat → (i = .repack ∨ i = .repackOther o.fmt) →
    ∃ m, (∀ k, k < 2 * o.uvSize → Memory.read m (o.dstAddr.toNat + o.ySize + k) = 128#8) ∧
      (∀ r c, r < o.height.toNat → c < o.width.toNat →
        Memory.read m (o.dstAddr.toNat + r * o.width.toNat + c) =
          if o.p0Addr = 0#64 then 0#8 else Memory.read s.mem (o.p0Addr.toNat + r * o.p0Stride.toNat + c)) ∧
      exec i s = .next { s with
        engine := .idle
        status := { s.status with
          done := true
          diagUnsup := s.status.diagUnsup ||
            decide (s.unsupCount.toNat % (s.platform.diagPeriodPred + 1) = 0)
          diagDim := s.status.diagDim || decide (¬ (o.width = s.recW ∧ o.height = s.recH)) }
        unsupCount := BitVec.ofNat 64 (s.unsupCount.toNat + 1)
        recW := o.width
        recH := o.height
        dstLen := BitVec.ofNat 64
          (o.width.toNat * o.height.toNat + 2 * ((o.width.toNat / 2) * (o.height.toNat / 2)))
        repackResult :=
          { uMissing := decide (o.p1Addr = 0#64)
            vMissing := decide (o.p2Addr = 0#64)
            uSuspect := o.uSuspect s.mem
            vSuspect := o.vSuspect s.mem
            chromaFilled := true
            lumaAbsent := decide (o.p0Addr = 0#64)
            oddDim := decide (o.width.toNat % 2 = 1 ∨ o.height.toNat % 2 = 1)
            unsupported := true }
        mem := m }

/-- 41_repack.md R127, R128: a plane is suspect exactly when uvs > 0, it is present, and its six probe bytes, at plain
offsets from its base, are 0; in a semiplanar format V is never suspect. -/
def Obligations.SuspectMeansSixZeroProbes : Prop :=
  ∀ (o : FrameRegs) (m : Memory),
    let uvw := o.width.toNat / 2
    let uvs := (o.width.toNat / 2) * (o.height.toNat / 2)
    let zeroAt := fun (base : Word) =>
      ∀ off ∈ [0, uvw / 2, uvw - 1, uvs / 4, uvs / 2, uvs - 1], Memory.read m (base.toNat + off) = 0#8
    (o.uSuspect m = true ↔ 0 < uvs ∧ o.p1Addr ≠ 0#64 ∧ zeroAt o.p1Addr) ∧
    (o.vSuspect m = true ↔ 0 < uvs ∧ o.fmt ≠ 4#8 ∧ o.fmt ≠ 5#8 ∧ o.p2Addr ≠ 0#64 ∧ zeroAt o.p2Addr)

/-- 41_repack.md R125: the luma region of every REPACK holds the source bytes at native stride, or zeros when plane 0 is
null, which LUMA_ABSENT records. -/
def Obligations.RepackCopiesLuma : Prop :=
  ∀ (s : State) (o : FrameRegs) (i : Instr), s.engine = .busy (.repack o) → (Command.repack o).Ready s →
    (i = .repack ∨ i = repackForm o.fmt) →
    ∃ t, exec i s = .next t ∧ (t.repackResult.lumaAbsent = true ↔ o.p0Addr = 0#64) ∧
      ∀ r c, r < o.height.toNat → c < o.width.toNat →
        Memory.read t.mem (o.dstAddr.toNat + r * o.width.toNat + c) =
          if o.p0Addr = 0#64 then 0#8 else Memory.read s.mem (o.p0Addr.toNat + r * o.p0Stride.toNat + c)

/-- 41_repack.md R129: CHROMA_FILLED is recorded exactly when a plane is missing or suspect or the format is not supported,
and then every byte of both chroma regions is 128. -/
def Obligations.RepackFillsDegradedChroma : Prop :=
  ∀ (s : State) (o : FrameRegs) (i : Instr), s.engine = .busy (.repack o) → (Command.repack o).Ready s →
    (i = .repack ∨ i = repackForm o.fmt) →
    ∃ t, exec i s = .next t ∧
      (t.repackResult.chromaFilled = true ↔ o.p1Addr = 0#64 ∨ (o.p2Addr = 0#64 ∧ o.fmt ≠ 4#8 ∧ o.fmt ≠ 5#8) ∨
        o.uSuspect s.mem = true ∨ o.vSuspect s.mem = true ∨ 6 ≤ o.fmt.toNat) ∧
      (t.repackResult.chromaFilled = true → ∀ k, k < 2 * o.uvSize →
        Memory.read t.mem (o.dstAddr.toNat + o.ySize + k) = 128#8)

/-- 41_repack.md R130 and R131: REPACK.P420 with fill = 0 copies U and V row by row at native stride; REPACK.P422 with
fill = 0 copies every second source row of U and V. -/
def Obligations.PlanarFormsCopyTheirPlanes : Prop :=
  ∀ (s : State) (o : FrameRegs) (fullRange : Bool), s.engine = .busy (.repack o) →
    (Command.repack o).Ready s → o.fill s.mem = false →
    (o.fmt = (if fullRange then 1#8 else 0#8) →
      ∃ t, exec (.repackP420 fullRange) s = .next t ∧ ∀ r c, r < o.uvHeight → c < o.uvWidth →
        Memory.read t.mem (o.dstAddr.toNat + o.ySize + r * o.uvWidth + c) =
          Memory.read s.mem (o.p1Addr.toNat + r * o.p1Stride.toNat + c) ∧
        Memory.read t.mem (o.dstAddr.toNat + o.ySize + o.uvSize + r * o.uvWidth + c) =
          Memory.read s.mem (o.p2Addr.toNat + r * o.p2Stride.toNat + c)) ∧
    (o.fmt = (if fullRange then 3#8 else 2#8) →
      ∃ t, exec (.repackP422 fullRange) s = .next t ∧ ∀ r c, r < o.uvHeight → c < o.uvWidth →
        Memory.read t.mem (o.dstAddr.toNat + o.ySize + r * o.uvWidth + c) =
          Memory.read s.mem (o.p1Addr.toNat + (2 * r) * o.p1Stride.toNat + c) ∧
        Memory.read t.mem (o.dstAddr.toNat + o.ySize + o.uvSize + r * o.uvWidth + c) =
          Memory.read s.mem (o.p2Addr.toNat + (2 * r) * o.p2Stride.toNat + c))

/-- 41_repack.md R132 and R133: REPACK.NV_U with fill = 0 takes U from the even bytes and V from the odd bytes of each row of
the shared plane; REPACK.NV_V takes them the other way round. -/
def Obligations.SemiplanarFormsDeinterleave : Prop :=
  ∀ (s : State) (o : FrameRegs), s.engine = .busy (.repack o) → (Command.repack o).Ready s →
    o.fill s.mem = false →
    (o.fmt = 4#8 → ∃ t, exec .repackNvU s = .next t ∧ ∀ r c, r < o.uvHeight → c < o.uvWidth →
      Memory.read t.mem (o.dstAddr.toNat + o.ySize + r * o.uvWidth + c) =
        Memory.read s.mem (o.p1Addr.toNat + r * o.p1Stride.toNat + 2 * c) ∧
      Memory.read t.mem (o.dstAddr.toNat + o.ySize + o.uvSize + r * o.uvWidth + c) =
        Memory.read s.mem (o.p1Addr.toNat + r * o.p1Stride.toNat + 2 * c + 1)) ∧
    (o.fmt = 5#8 → ∃ t, exec .repackNvV s = .next t ∧ ∀ r c, r < o.uvHeight → c < o.uvWidth →
      Memory.read t.mem (o.dstAddr.toNat + o.ySize + o.uvSize + r * o.uvWidth + c) =
        Memory.read s.mem (o.p1Addr.toNat + r * o.p1Stride.toNat + 2 * c) ∧
      Memory.read t.mem (o.dstAddr.toNat + o.ySize + r * o.uvWidth + c) =
        Memory.read s.mem (o.p1Addr.toNat + r * o.p1Stride.toNat + 2 * c + 1))

/-- The frame of every REPACK (41_repack.md R137): every byte of memory outside `[DST, DST + L)` is unchanged, and so are the
operand registers, both channels, the agenda, and the model's own fields. -/
def Obligations.RepackWritesOnlyItsBuffer : Prop :=
  ∀ (s : State) (o : FrameRegs) (i : Instr), s.engine = .busy (.repack o) → (Command.repack o).Ready s →
    (i = .repack ∨ i = repackForm o.fmt) →
    ∃ t, exec i s = .next t ∧
      (∀ a, a < o.dstAddr.toNat ∨ o.dstAddr.toNat + o.bufLen ≤ a → Memory.read t.mem a = Memory.read s.mem a) ∧
      t.frame = s.frame ∧ t.audio = s.audio ∧ t.chL = s.chL ∧ t.chR = s.chR ∧ t.irqEn = s.irqEn ∧
      t.agenda = s.agenda ∧ t.unsynced = s.unsynced ∧ t.readData = s.readData ∧ t.draws = s.draws ∧
      (supported o.fmt = true → t.unsupCount = s.unsupCount ∧ t.status.diagUnsup = s.status.diagUnsup) ∧
      t.status.errCmd = s.status.errCmd ∧ t.status.errBusy = s.status.errBusy ∧
      t.status.errAddr = s.status.errAddr

/-- 41_repack.md R139: two REPACKs with equal snapshots and memory equal at every byte of RD write equal buffers, DST_LEN and
REPACK_RESULT. -/
def Obligations.RepackIsPure : Prop :=
  ∀ (s s' : State) (o : FrameRegs), s.engine = .busy (.repack o) → s'.engine = .busy (.repack o) →
    (Command.repack o).Ready s → (Command.repack o).Ready s' →
    (∀ a, o.ReadsAt a → Memory.read s.mem a = Memory.read s'.mem a) →
    ∃ t t', exec .repack s = .next t ∧ exec .repack s' = .next t' ∧ t.dstLen = t'.dstLen ∧
      t.repackResult = t'.repackResult ∧
      ∀ k, k < o.bufLen →
        Memory.read t.mem (o.dstAddr.toNat + k) = Memory.read t'.mem (o.dstAddr.toNat + k)

/-! ### ADPCM -/

/-- 42_adpcm.md R161: one nibble on a channel in range is ADPCM_STEP on mathematical integers, the step looked up from the
old index, both results clamped; narrowing to the fields loses nothing. The step sizes are the table's
(notes/assumptions/9.md: general knowledge, as the rule itself marks them), of which R160 states that it has 89 entries,
from 7 to 32767, strictly increasing. -/
def Obligations.ChannelStepIsAdpcmStep : Prop :=
  (stepTable.length = 89 ∧ stepTable.getD 0 0 = 7 ∧ stepTable.getD 88 0 = 32767 ∧
    ∀ i, i < 88 → stepTable.getD i 0 < stepTable.getD (i + 1) 0) ∧
  ∀ (c : Channel) (n : BitVec 4), c.idx.toNat ≤ 88 →
    let step : Nat := stepTable.getD c.idx.toNat 0
    let diff : Nat := step / 8 + (if n.getLsbD 2 then step else 0) + (if n.getLsbD 1 then step / 2 else 0) +
      (if n.getLsbD 0 then step / 4 else 0)
    (c.step n).pred.toInt =
      min (max (if n.getLsbD 3 then c.pred.toInt - diff else c.pred.toInt + diff) (-32768)) 32767 ∧
    ((c.step n).idx.toNat : Int) = min (max ((c.idx.toNat : Int) +
      (if n.getLsbD 2 then 2 * ((n.toNat % 4 : Nat) : Int) + 2 else -1)) 0) 88 ∧
    diff ≤ 61436

/-- 42_adpcm.md R163: ADPCM_DECODE leaves each channel at the left fold of the step function over its nibbles (R164), and
changes no register but CH_L, CH_R, BUSY and DONE. -/
def Obligations.DecodeFoldsEachLane : Prop :=
  ∀ (s : State) (o : AudioRegs), s.engine = .busy (.adpcmDecode o) → (Command.adpcmDecode o).Ready s →
    ∃ m, exec .adpcmDecode s = .next { s with
      engine := .idle
      status := { s.status with done := true }
      chL := laneAfter s.mem o.srcAddr.toNat highNibble s.chL o.srcLen.toNat
      chR := laneAfter s.mem o.srcAddr.toNat lowNibble s.chR o.srcLen.toNat
      mem := m }

/-- 42_adpcm.md R163, 30_encoding.md R87: pair j is the left sample's binary32 word at OUT + 8j and the right sample's at
OUT + 8j + 4, least significant byte first, each from its lane after byte j; no other byte of memory changes. -/
def Obligations.DecodeWritesTheSamplePairs : Prop :=
  ∀ (s : State) (o : AudioRegs), s.engine = .busy (.adpcmDecode o) → (Command.adpcmDecode o).Ready s →
    ∃ t, exec .adpcmDecode s = .next t ∧
      (∀ j i, j < o.srcLen.toNat → i < 4 →
        Memory.read t.mem (o.outAddr.toNat + 8 * j + i) =
          (laneAfter s.mem o.srcAddr.toNat highNibble s.chL (j + 1)).sample.extractLsb' (8 * i) 8 ∧
        Memory.read t.mem (o.outAddr.toNat + 8 * j + 4 + i) =
          (laneAfter s.mem o.srcAddr.toNat lowNibble s.chR (j + 1)).sample.extractLsb' (8 * i) 8) ∧
      ∀ a, a < o.outAddr.toNat ∨ o.outAddr.toNat + 8 * o.srcLen.toNat ≤ a →
        Memory.read t.mem a = Memory.read s.mem a

/-- 42_adpcm.md R164, R167: decoding N1 bytes and then the N2 bytes after them, each pair placed after the last, leaves the
same memory and the same channels as decoding all N1 + N2 at once. -/
def Obligations.DecodeInTwoPartsIsDecodeAtOnce : Prop :=
  ∀ (s : State) (o o1 o2 : AudioRegs), (Command.adpcmDecode o).Ready s →
    o1.srcAddr = o.srcAddr → o1.outAddr = o.outAddr →
    o2.srcAddr.toNat = o.srcAddr.toNat + o1.srcLen.toNat →
    o2.outAddr.toNat = o.outAddr.toNat + 8 * o1.srcLen.toNat →
    o.srcLen.toNat = o1.srcLen.toNat + o2.srcLen.toNat →
    ∃ t t1 t2, exec .adpcmDecode { s with engine := .busy (.adpcmDecode o) } = .next t ∧
      exec .adpcmDecode { s with engine := .busy (.adpcmDecode o1) } = .next t1 ∧
      exec .adpcmDecode { t1 with engine := .busy (.adpcmDecode o2) } = .next t2 ∧
      t2.chL = t.chL ∧ t2.chR = t.chR ∧ ∀ a, Memory.read t2.mem a = Memory.read t.mem a

/-- 42_adpcm.md R165: with no input byte ADPCM_DECODE reads and writes nothing, leaves both channels, and completes. -/
def Obligations.EmptyDecodeChangesNothing : Prop :=
  ∀ (s : State) (o : AudioRegs), s.engine = .busy (.adpcmDecode o) → o.srcLen = 0#32 →
    exec .adpcmDecode s =
      .next { s with engine := .idle, status := { s.status with done := true }, raced := false }

/-- 42_adpcm.md R166: ADPCM_RESET sets both channels to (0, 0) and changes nothing else but BUSY and DONE. -/
def Obligations.AdpcmResetClearsBothChannels : Prop :=
  ∀ (s : State), s.engine = .busy .adpcmReset →
    exec .adpcmReset s = .next { s with
      engine := .idle, status := { s.status with done := true }, chL := ⟨0#16, 0#7⟩, chR := ⟨0#16, 0#7⟩
      raced := false }

/-- 30_encoding.md R88, 42_adpcm.md R162, R168: F32(p) is the binary32 word of p / 32768 exactly, +0.0 for 0, and lies in
[-1, 32767/32768]. The field layout is general knowledge, as the rule itself marks it (notes/assumptions/10.md). -/
def Obligations.SampleIsThePredictorExactly : Prop :=
  ∀ p : Int, -32768 ≤ p → p ≤ 32767 →
    binary32Value (f32 p) = (p : ℚ) / 32768 ∧ (p = 0 → f32 p = 0#32) ∧
      -1 ≤ binary32Value (f32 p) ∧ binary32Value (f32 p) ≤ 32767 / 32768

/-- 42_adpcm.md R169: nibble 0xF repeated strictly lowers the predictor until it is -32768, where it stays; nibble 0x0
repeated never lowers it, and lowers the index by 1 down to 0, where the predictor stops. -/
def Obligations.ConstantNibblesBehaveAsStated : Prop :=
  (∀ (c : Channel), c.idx.toNat ≤ 88 →
    (c.pred.toInt ≠ -32768 → (c.step 0xF#4).pred.toInt < c.pred.toInt) ∧
    (c.pred.toInt = -32768 → (c.step 0xF#4).pred.toInt = -32768) ∧
    (c.step 0xF#4).idx.toNat = min (c.idx.toNat + 8) 88) ∧
  (∀ (c : Channel), c.idx.toNat ≤ 88 →
    c.pred.toInt ≤ (c.step 0#4).pred.toInt ∧ (c.step 0#4).idx.toNat = c.idx.toNat - 1) ∧
  (∀ (c : Channel) (n : Nat), c.idx = 0#7 → laneConstant 0#4 c n = c) ∧
  (∀ (c : Channel) (n : Nat), c.idx.toNat ≤ 88 → 65536 ≤ n → (laneConstant 0xF#4 c n).pred.toInt = -32768)

/-- 10_state.md R41, 90_conflicts.md C8: a step changes a channel only when it is a reset, a host write of that channel's
register while IDLE, or the engine's turn with ADPCM_RESET or ADPCM_DECODE in flight; so no REPACK, no register read, no
host memory access, no idle turn and no host move while BUSY changes one. -/
def Obligations.ChannelStateChangesOnlyAsStated : Prop :=
  ∀ s t : State, step s = .next t →
    (t.chL ≠ s.chL → s.agenda.head? = some .reset ∨
      (s.busy = false ∧ ∃ v, s.hostInstr = some (.mmioWrite 21#5 v)) ∨
      (s.engineMoves ∧ (s.engine = .busy .adpcmReset ∨ ∃ o, s.engine = .busy (.adpcmDecode o)))) ∧
    (t.chR ≠ s.chR → s.agenda.head? = some .reset ∨
      (s.busy = false ∧ ∃ v, s.hostInstr = some (.mmioWrite 22#5 v)) ∨
      (s.engineMoves ∧ (s.engine = .busy .adpcmReset ∨ ∃ o, s.engine = .busy (.adpcmDecode o))))

/-! ### System memory and the host -/

/-- 20_memory.md R69, 60_exceptions.md R202: a host write to a byte in the footprint of a command it has not synchronised with
records fault HOST_RACE; no other byte of memory and no register changes. The byte is the host's, or a draw where such a
command writes it or the platform does not answer there as plain memory, and the command in flight is marked when the byte
is in its footprint (notes/assumptions/14.md). -/
def Obligations.HostWriteToAFootprintRaces : Prop :=
  ∀ (s : State) (c : Command) (a : Word) (b : Byte) (rest : List Event), s.agenda = .memWrite a b :: rest →
    c ∈ s.unsynced → c.InFootprint a.toNat →
    ∃ t, step s = .next t ∧
      t = { s with
        agenda := rest, mem := t.mem, draws := t.draws, faults := .hostRace :: s.faults, raced := t.raced } ∧
      (∀ a', a' ≠ a.toNat → Memory.read t.mem a' = Memory.read s.mem a') ∧
      ((∀ c' ∈ s.unsynced, c'.overflows = true ∨ ¬ c'.WritesAt a.toNat) → s.platform.admits a.toNat = true →
        s.platform.sideEffectAt a.toNat = false → Memory.read t.mem a.toNat = b ∧ t.draws = s.draws) ∧
      ((∃ c' ∈ s.unsynced, c'.overflows = false ∧ c'.WritesAt a.toNat) ∨ s.platform.admits a.toNat = false ∨
        s.platform.sideEffectAt a.toNat = true →
        Memory.read t.mem a.toNat = Config.freeByte s.draws ∧ t.draws = s.draws + 1) ∧
      (t.raced = true ↔ s.raced = true ∨ ∃ c', s.engine = .busy c' ∧ c'.InFootprint a.toNat)

/-- 20_memory.md R69: a host read of a byte that such a command writes is a draw, whatever the platform does there; of a byte
such commands only read, it is memory's value where the platform answers at all; of one they do not touch, or leave because
they end with ERR_ADDR, where it answers as plain memory; and else it is the platform's own (notes/assumptions/16.md). -/
def Obligations.HostReadIsADrawOnlyOfOutputs : Prop :=
  ∀ (s : State) (a : Word) (rest : List Event), s.agenda = .memRead a :: rest →
    ((∃ c ∈ s.unsynced, c.overflows = false ∧ c.WritesAt a.toNat) →
      step s = .next { s with
        agenda := rest, readData := (Config.freeByte s.draws).setWidth 64, draws := s.draws + 1 }) ∧
    ((∀ c ∈ s.unsynced, c.overflows = true ∨ ¬ c.WritesAt a.toNat) →
      (s.platform.admits a.toNat = true →
        s.platform.sideEffectAt a.toNat = false ∨ (∃ c ∈ s.unsynced, c.ReadsAt a.toNat) →
        step s = .next { s with agenda := rest, readData := (Memory.read s.mem a.toNat).setWidth 64 }) ∧
      (s.platform.admits a.toNat = false ∨
        (s.platform.sideEffectAt a.toNat = true ∧ ∀ c ∈ s.unsynced, ¬ c.ReadsAt a.toNat) →
        step s = .refused (.platformMemory a)))

/-- 20_memory.md R71, R75: no step but the host's read of STATUS with BUSY = 0 ends a window of host duty, a reset neither;
any other step leaves the commands the host has not synchronised with, or adds the one it accepts. -/
def Obligations.OnlyAStatusReadSynchronises : Prop :=
  ∀ s t : State, step s = .next t →
    t.unsynced = s.unsynced ∨ (∃ c, t.engine = .busy c ∧ t.unsynced = c :: s.unsynced) ∨
    (s.busy = false ∧ s.hostInstr = some (.mmioRead 2#5) ∧ t.unsynced = [])

/-- 20_memory.md R60, R61: a host write to memory that no unsynchronised command may access changes that byte and no other. -/
def Obligations.HostWriteChangesOneByte : Prop :=
  ∀ (s : State) (a : Word) (b : Byte) (rest : List Event), s.agenda = .memWrite a b :: rest →
    s.platform.admits a.toNat = true → s.platform.sideEffectAt a.toNat = false →
    (∀ c ∈ s.unsynced, ¬ c.InFootprint a.toNat) →
    ∃ t, step s = .next t ∧ t = { s with agenda := rest, mem := t.mem } ∧
      Memory.read t.mem a.toNat = b ∧ ∀ a', a' ≠ a.toNat → Memory.read t.mem a' = Memory.read s.mem a'
end

