-- ==== Sys2Proof/Laws/State.lean ====
section
/-! SUPPORT. What each update of the state does to each field of it, one lemma a field, and the phase BUSY. -/

namespace Sys2Proof.Machine

variable (s : State)

@[simp] theorem raiseErrCmd_irqEn : (raiseErrCmd s).irqEn = s.irqEn := rfl
@[simp] theorem raiseErrCmd_status : (raiseErrCmd s).status = { s.status with errCmd := true, done := true } := rfl
@[simp] theorem raiseErrCmd_frame : (raiseErrCmd s).frame = s.frame := rfl
@[simp] theorem raiseErrCmd_repackResult : (raiseErrCmd s).repackResult = s.repackResult := rfl
@[simp] theorem raiseErrCmd_dstLen : (raiseErrCmd s).dstLen = s.dstLen := rfl
@[simp] theorem raiseErrCmd_recW : (raiseErrCmd s).recW = s.recW := rfl
@[simp] theorem raiseErrCmd_recH : (raiseErrCmd s).recH = s.recH := rfl
@[simp] theorem raiseErrCmd_unsupCount : (raiseErrCmd s).unsupCount = s.unsupCount := rfl
@[simp] theorem raiseErrCmd_audio : (raiseErrCmd s).audio = s.audio := rfl
@[simp] theorem raiseErrCmd_chL : (raiseErrCmd s).chL = s.chL := rfl
@[simp] theorem raiseErrCmd_chR : (raiseErrCmd s).chR = s.chR := rfl
@[simp] theorem raiseErrCmd_engine : (raiseErrCmd s).engine = s.engine := rfl
@[simp] theorem raiseErrCmd_mem : (raiseErrCmd s).mem = s.mem := rfl
@[simp] theorem raiseErrCmd_platform : (raiseErrCmd s).platform = s.platform := rfl
@[simp] theorem raiseErrCmd_agenda : (raiseErrCmd s).agenda = s.agenda := rfl
@[simp] theorem raiseErrCmd_unsynced : (raiseErrCmd s).unsynced = s.unsynced := rfl
@[simp] theorem raiseErrCmd_readData : (raiseErrCmd s).readData = s.readData := rfl
@[simp] theorem raiseErrCmd_draws : (raiseErrCmd s).draws = s.draws := rfl
@[simp] theorem raiseErrCmd_raced : (raiseErrCmd s).raced = s.raced := rfl
@[simp] theorem raiseErrCmd_faults : (raiseErrCmd s).faults = s.faults := rfl

@[simp] theorem raiseErrBusy_irqEn : (raiseErrBusy s).irqEn = s.irqEn := rfl
@[simp] theorem raiseErrBusy_status : (raiseErrBusy s).status = { s.status with errBusy := true } := rfl
@[simp] theorem raiseErrBusy_frame : (raiseErrBusy s).frame = s.frame := rfl
@[simp] theorem raiseErrBusy_repackResult : (raiseErrBusy s).repackResult = s.repackResult := rfl
@[simp] theorem raiseErrBusy_dstLen : (raiseErrBusy s).dstLen = s.dstLen := rfl
@[simp] theorem raiseErrBusy_recW : (raiseErrBusy s).recW = s.recW := rfl
@[simp] theorem raiseErrBusy_recH : (raiseErrBusy s).recH = s.recH := rfl
@[simp] theorem raiseErrBusy_unsupCount : (raiseErrBusy s).unsupCount = s.unsupCount := rfl
@[simp] theorem raiseErrBusy_audio : (raiseErrBusy s).audio = s.audio := rfl
@[simp] theorem raiseErrBusy_chL : (raiseErrBusy s).chL = s.chL := rfl
@[simp] theorem raiseErrBusy_chR : (raiseErrBusy s).chR = s.chR := rfl
@[simp] theorem raiseErrBusy_engine : (raiseErrBusy s).engine = s.engine := rfl
@[simp] theorem raiseErrBusy_mem : (raiseErrBusy s).mem = s.mem := rfl
@[simp] theorem raiseErrBusy_platform : (raiseErrBusy s).platform = s.platform := rfl
@[simp] theorem raiseErrBusy_agenda : (raiseErrBusy s).agenda = s.agenda := rfl
@[simp] theorem raiseErrBusy_unsynced : (raiseErrBusy s).unsynced = s.unsynced := rfl
@[simp] theorem raiseErrBusy_readData : (raiseErrBusy s).readData = s.readData := rfl
@[simp] theorem raiseErrBusy_draws : (raiseErrBusy s).draws = s.draws := rfl
@[simp] theorem raiseErrBusy_raced : (raiseErrBusy s).raced = s.raced := rfl
@[simp] theorem raiseErrBusy_faults : (raiseErrBusy s).faults = s.faults := rfl

@[simp] theorem raiseErrAddr_irqEn : (raiseErrAddr s).irqEn = s.irqEn := rfl
@[simp] theorem raiseErrAddr_status : (raiseErrAddr s).status = { s.status with errAddr := true } := rfl
@[simp] theorem raiseErrAddr_frame : (raiseErrAddr s).frame = s.frame := rfl
@[simp] theorem raiseErrAddr_repackResult : (raiseErrAddr s).repackResult = s.repackResult := rfl
@[simp] theorem raiseErrAddr_dstLen : (raiseErrAddr s).dstLen = s.dstLen := rfl
@[simp] theorem raiseErrAddr_recW : (raiseErrAddr s).recW = s.recW := rfl
@[simp] theorem raiseErrAddr_recH : (raiseErrAddr s).recH = s.recH := rfl
@[simp] theorem raiseErrAddr_unsupCount : (raiseErrAddr s).unsupCount = s.unsupCount := rfl
@[simp] theorem raiseErrAddr_audio : (raiseErrAddr s).audio = s.audio := rfl
@[simp] theorem raiseErrAddr_chL : (raiseErrAddr s).chL = s.chL := rfl
@[simp] theorem raiseErrAddr_chR : (raiseErrAddr s).chR = s.chR := rfl
@[simp] theorem raiseErrAddr_engine : (raiseErrAddr s).engine = s.engine := rfl
@[simp] theorem raiseErrAddr_mem : (raiseErrAddr s).mem = s.mem := rfl
@[simp] theorem raiseErrAddr_platform : (raiseErrAddr s).platform = s.platform := rfl
@[simp] theorem raiseErrAddr_agenda : (raiseErrAddr s).agenda = s.agenda := rfl
@[simp] theorem raiseErrAddr_unsynced : (raiseErrAddr s).unsynced = s.unsynced := rfl
@[simp] theorem raiseErrAddr_readData : (raiseErrAddr s).readData = s.readData := rfl
@[simp] theorem raiseErrAddr_draws : (raiseErrAddr s).draws = s.draws := rfl
@[simp] theorem raiseErrAddr_raced : (raiseErrAddr s).raced = s.raced := rfl
@[simp] theorem raiseErrAddr_faults : (raiseErrAddr s).faults = s.faults := rfl

@[simp] theorem completeCommand_irqEn : (completeCommand s).irqEn = s.irqEn := rfl
@[simp] theorem completeCommand_status : (completeCommand s).status = { s.status with done := true } := rfl
@[simp] theorem completeCommand_frame : (completeCommand s).frame = s.frame := rfl
@[simp] theorem completeCommand_repackResult : (completeCommand s).repackResult = s.repackResult := rfl
@[simp] theorem completeCommand_dstLen : (completeCommand s).dstLen = s.dstLen := rfl
@[simp] theorem completeCommand_recW : (completeCommand s).recW = s.recW := rfl
@[simp] theorem completeCommand_recH : (completeCommand s).recH = s.recH := rfl
@[simp] theorem completeCommand_unsupCount : (completeCommand s).unsupCount = s.unsupCount := rfl
@[simp] theorem completeCommand_audio : (completeCommand s).audio = s.audio := rfl
@[simp] theorem completeCommand_chL : (completeCommand s).chL = s.chL := rfl
@[simp] theorem completeCommand_chR : (completeCommand s).chR = s.chR := rfl
@[simp] theorem completeCommand_engine : (completeCommand s).engine = .idle := rfl
@[simp] theorem completeCommand_mem : (completeCommand s).mem = s.mem := rfl
@[simp] theorem completeCommand_platform : (completeCommand s).platform = s.platform := rfl
@[simp] theorem completeCommand_agenda : (completeCommand s).agenda = s.agenda := rfl
@[simp] theorem completeCommand_unsynced : (completeCommand s).unsynced = s.unsynced := rfl
@[simp] theorem completeCommand_readData : (completeCommand s).readData = s.readData := rfl
@[simp] theorem completeCommand_draws : (completeCommand s).draws = s.draws := rfl
@[simp] theorem completeCommand_raced : (completeCommand s).raced = false := rfl
@[simp] theorem completeCommand_faults : (completeCommand s).faults = s.faults := rfl

@[simp] theorem acceptCommand_irqEn (c : Command) : (acceptCommand c s).irqEn = s.irqEn := rfl
@[simp] theorem acceptCommand_status (c : Command) : (acceptCommand c s).status = { s.status with done := false } := rfl
@[simp] theorem acceptCommand_frame (c : Command) : (acceptCommand c s).frame = s.frame := rfl
@[simp] theorem acceptCommand_repackResult (c : Command) : (acceptCommand c s).repackResult = s.repackResult := rfl
@[simp] theorem acceptCommand_dstLen (c : Command) : (acceptCommand c s).dstLen = s.dstLen := rfl
@[simp] theorem acceptCommand_recW (c : Command) : (acceptCommand c s).recW = s.recW := rfl
@[simp] theorem acceptCommand_recH (c : Command) : (acceptCommand c s).recH = s.recH := rfl
@[simp] theorem acceptCommand_unsupCount (c : Command) : (acceptCommand c s).unsupCount = s.unsupCount := rfl
@[simp] theorem acceptCommand_audio (c : Command) : (acceptCommand c s).audio = s.audio := rfl
@[simp] theorem acceptCommand_chL (c : Command) : (acceptCommand c s).chL = s.chL := rfl
@[simp] theorem acceptCommand_chR (c : Command) : (acceptCommand c s).chR = s.chR := rfl
@[simp] theorem acceptCommand_engine (c : Command) : (acceptCommand c s).engine = .busy c := rfl
@[simp] theorem acceptCommand_mem (c : Command) : (acceptCommand c s).mem = s.mem := rfl
@[simp] theorem acceptCommand_platform (c : Command) : (acceptCommand c s).platform = s.platform := rfl
@[simp] theorem acceptCommand_agenda (c : Command) : (acceptCommand c s).agenda = s.agenda := rfl
@[simp] theorem acceptCommand_unsynced (c : Command) : (acceptCommand c s).unsynced = c :: s.unsynced := rfl
@[simp] theorem acceptCommand_readData (c : Command) : (acceptCommand c s).readData = s.readData := rfl
@[simp] theorem acceptCommand_draws (c : Command) : (acceptCommand c s).draws = s.draws := rfl
@[simp] theorem acceptCommand_raced (c : Command) : (acceptCommand c s).raced = false := rfl
@[simp] theorem acceptCommand_faults (c : Command) : (acceptCommand c s).faults = s.faults := rfl

@[simp] theorem returnWord_irqEn (v : Word) : (returnWord v s).irqEn = s.irqEn := rfl
@[simp] theorem returnWord_status (v : Word) : (returnWord v s).status = s.status := rfl
@[simp] theorem returnWord_frame (v : Word) : (returnWord v s).frame = s.frame := rfl
@[simp] theorem returnWord_repackResult (v : Word) : (returnWord v s).repackResult = s.repackResult := rfl
@[simp] theorem returnWord_dstLen (v : Word) : (returnWord v s).dstLen = s.dstLen := rfl
@[simp] theorem returnWord_recW (v : Word) : (returnWord v s).recW = s.recW := rfl
@[simp] theorem returnWord_recH (v : Word) : (returnWord v s).recH = s.recH := rfl
@[simp] theorem returnWord_unsupCount (v : Word) : (returnWord v s).unsupCount = s.unsupCount := rfl
@[simp] theorem returnWord_audio (v : Word) : (returnWord v s).audio = s.audio := rfl
@[simp] theorem returnWord_chL (v : Word) : (returnWord v s).chL = s.chL := rfl
@[simp] theorem returnWord_chR (v : Word) : (returnWord v s).chR = s.chR := rfl
@[simp] theorem returnWord_engine (v : Word) : (returnWord v s).engine = s.engine := rfl
@[simp] theorem returnWord_mem (v : Word) : (returnWord v s).mem = s.mem := rfl
@[simp] theorem returnWord_platform (v : Word) : (returnWord v s).platform = s.platform := rfl
@[simp] theorem returnWord_agenda (v : Word) : (returnWord v s).agenda = s.agenda := rfl
@[simp] theorem returnWord_unsynced (v : Word) : (returnWord v s).unsynced = s.unsynced := rfl
@[simp] theorem returnWord_readData (v : Word) : (returnWord v s).readData = v := rfl
@[simp] theorem returnWord_draws (v : Word) : (returnWord v s).draws = s.draws := rfl
@[simp] theorem returnWord_raced (v : Word) : (returnWord v s).raced = s.raced := rfl
@[simp] theorem returnWord_faults (v : Word) : (returnWord v s).faults = s.faults := rfl

@[simp] theorem drawWord_irqEn : (drawWord s).irqEn = s.irqEn := rfl
@[simp] theorem drawWord_status : (drawWord s).status = s.status := rfl
@[simp] theorem drawWord_frame : (drawWord s).frame = s.frame := rfl
@[simp] theorem drawWord_repackResult : (drawWord s).repackResult = s.repackResult := rfl
@[simp] theorem drawWord_dstLen : (drawWord s).dstLen = s.dstLen := rfl
@[simp] theorem drawWord_recW : (drawWord s).recW = s.recW := rfl
@[simp] theorem drawWord_recH : (drawWord s).recH = s.recH := rfl
@[simp] theorem drawWord_unsupCount : (drawWord s).unsupCount = s.unsupCount := rfl
@[simp] theorem drawWord_audio : (drawWord s).audio = s.audio := rfl
@[simp] theorem drawWord_chL : (drawWord s).chL = s.chL := rfl
@[simp] theorem drawWord_chR : (drawWord s).chR = s.chR := rfl
@[simp] theorem drawWord_engine : (drawWord s).engine = s.engine := rfl
@[simp] theorem drawWord_mem : (drawWord s).mem = s.mem := rfl
@[simp] theorem drawWord_platform : (drawWord s).platform = s.platform := rfl
@[simp] theorem drawWord_agenda : (drawWord s).agenda = s.agenda := rfl
@[simp] theorem drawWord_unsynced : (drawWord s).unsynced = s.unsynced := rfl
@[simp] theorem drawWord_readData : (drawWord s).readData = Config.freeWord s.draws := rfl
@[simp] theorem drawWord_draws : (drawWord s).draws = s.draws + 1 := rfl
@[simp] theorem drawWord_raced : (drawWord s).raced = s.raced := rfl
@[simp] theorem drawWord_faults : (drawWord s).faults = s.faults := rfl

@[simp] theorem drawByte_irqEn : (drawByte s).irqEn = s.irqEn := rfl
@[simp] theorem drawByte_status : (drawByte s).status = s.status := rfl
@[simp] theorem drawByte_frame : (drawByte s).frame = s.frame := rfl
@[simp] theorem drawByte_repackResult : (drawByte s).repackResult = s.repackResult := rfl
@[simp] theorem drawByte_dstLen : (drawByte s).dstLen = s.dstLen := rfl
@[simp] theorem drawByte_recW : (drawByte s).recW = s.recW := rfl
@[simp] theorem drawByte_recH : (drawByte s).recH = s.recH := rfl
@[simp] theorem drawByte_unsupCount : (drawByte s).unsupCount = s.unsupCount := rfl
@[simp] theorem drawByte_audio : (drawByte s).audio = s.audio := rfl
@[simp] theorem drawByte_chL : (drawByte s).chL = s.chL := rfl
@[simp] theorem drawByte_chR : (drawByte s).chR = s.chR := rfl
@[simp] theorem drawByte_engine : (drawByte s).engine = s.engine := rfl
@[simp] theorem drawByte_mem : (drawByte s).mem = s.mem := rfl
@[simp] theorem drawByte_platform : (drawByte s).platform = s.platform := rfl
@[simp] theorem drawByte_agenda : (drawByte s).agenda = s.agenda := rfl
@[simp] theorem drawByte_unsynced : (drawByte s).unsynced = s.unsynced := rfl
@[simp] theorem drawByte_readData : (drawByte s).readData = (Config.freeByte s.draws).setWidth 64 := rfl
@[simp] theorem drawByte_draws : (drawByte s).draws = s.draws + 1 := rfl
@[simp] theorem drawByte_raced : (drawByte s).raced = s.raced := rfl
@[simp] theorem drawByte_faults : (drawByte s).faults = s.faults := rfl

@[simp] theorem drawSpan_irqEn (sp : Span) : (drawSpan sp s).irqEn = s.irqEn := rfl
@[simp] theorem drawSpan_status (sp : Span) : (drawSpan sp s).status = s.status := rfl
@[simp] theorem drawSpan_frame (sp : Span) : (drawSpan sp s).frame = s.frame := rfl
@[simp] theorem drawSpan_repackResult (sp : Span) : (drawSpan sp s).repackResult = s.repackResult := rfl
@[simp] theorem drawSpan_dstLen (sp : Span) : (drawSpan sp s).dstLen = s.dstLen := rfl
@[simp] theorem drawSpan_recW (sp : Span) : (drawSpan sp s).recW = s.recW := rfl
@[simp] theorem drawSpan_recH (sp : Span) : (drawSpan sp s).recH = s.recH := rfl
@[simp] theorem drawSpan_unsupCount (sp : Span) : (drawSpan sp s).unsupCount = s.unsupCount := rfl
@[simp] theorem drawSpan_audio (sp : Span) : (drawSpan sp s).audio = s.audio := rfl
@[simp] theorem drawSpan_chL (sp : Span) : (drawSpan sp s).chL = s.chL := rfl
@[simp] theorem drawSpan_chR (sp : Span) : (drawSpan sp s).chR = s.chR := rfl
@[simp] theorem drawSpan_engine (sp : Span) : (drawSpan sp s).engine = s.engine := rfl
@[simp] theorem drawSpan_mem (sp : Span) : (drawSpan sp s).mem = Memory.writeRow s.mem sp.base sp.len fun k => Config.freeByte (s.draws + k) := rfl
@[simp] theorem drawSpan_platform (sp : Span) : (drawSpan sp s).platform = s.platform := rfl
@[simp] theorem drawSpan_agenda (sp : Span) : (drawSpan sp s).agenda = s.agenda := rfl
@[simp] theorem drawSpan_unsynced (sp : Span) : (drawSpan sp s).unsynced = s.unsynced := rfl
@[simp] theorem drawSpan_readData (sp : Span) : (drawSpan sp s).readData = s.readData := rfl
@[simp] theorem drawSpan_draws (sp : Span) : (drawSpan sp s).draws = s.draws + sp.len := rfl
@[simp] theorem drawSpan_raced (sp : Span) : (drawSpan sp s).raced = s.raced := rfl
@[simp] theorem drawSpan_faults (sp : Span) : (drawSpan sp s).faults = s.faults := rfl

@[simp] theorem synchronise_irqEn : (synchronise s).irqEn = s.irqEn := rfl
@[simp] theorem synchronise_status : (synchronise s).status = s.status := rfl
@[simp] theorem synchronise_frame : (synchronise s).frame = s.frame := rfl
@[simp] theorem synchronise_repackResult : (synchronise s).repackResult = s.repackResult := rfl
@[simp] theorem synchronise_dstLen : (synchronise s).dstLen = s.dstLen := rfl
@[simp] theorem synchronise_recW : (synchronise s).recW = s.recW := rfl
@[simp] theorem synchronise_recH : (synchronise s).recH = s.recH := rfl
@[simp] theorem synchronise_unsupCount : (synchronise s).unsupCount = s.unsupCount := rfl
@[simp] theorem synchronise_audio : (synchronise s).audio = s.audio := rfl
@[simp] theorem synchronise_chL : (synchronise s).chL = s.chL := rfl
@[simp] theorem synchronise_chR : (synchronise s).chR = s.chR := rfl
@[simp] theorem synchronise_engine : (synchronise s).engine = s.engine := rfl
@[simp] theorem synchronise_mem : (synchronise s).mem = s.mem := rfl
@[simp] theorem synchronise_platform : (synchronise s).platform = s.platform := rfl
@[simp] theorem synchronise_agenda : (synchronise s).agenda = s.agenda := rfl
@[simp] theorem synchronise_unsynced : (synchronise s).unsynced = [] := rfl
@[simp] theorem synchronise_readData : (synchronise s).readData = s.readData := rfl
@[simp] theorem synchronise_draws : (synchronise s).draws = s.draws := rfl
@[simp] theorem synchronise_raced : (synchronise s).raced = s.raced := rfl
@[simp] theorem synchronise_faults : (synchronise s).faults = s.faults := rfl

@[simp] theorem recordFaults_irqEn (l : List Fault) : (recordFaults l s).irqEn = s.irqEn := rfl
@[simp] theorem recordFaults_status (l : List Fault) : (recordFaults l s).status = s.status := rfl
@[simp] theorem recordFaults_frame (l : List Fault) : (recordFaults l s).frame = s.frame := rfl
@[simp] theorem recordFaults_repackResult (l : List Fault) : (recordFaults l s).repackResult = s.repackResult := rfl
@[simp] theorem recordFaults_dstLen (l : List Fault) : (recordFaults l s).dstLen = s.dstLen := rfl
@[simp] theorem recordFaults_recW (l : List Fault) : (recordFaults l s).recW = s.recW := rfl
@[simp] theorem recordFaults_recH (l : List Fault) : (recordFaults l s).recH = s.recH := rfl
@[simp] theorem recordFaults_unsupCount (l : List Fault) : (recordFaults l s).unsupCount = s.unsupCount := rfl
@[simp] theorem recordFaults_audio (l : List Fault) : (recordFaults l s).audio = s.audio := rfl
@[simp] theorem recordFaults_chL (l : List Fault) : (recordFaults l s).chL = s.chL := rfl
@[simp] theorem recordFaults_chR (l : List Fault) : (recordFaults l s).chR = s.chR := rfl
@[simp] theorem recordFaults_engine (l : List Fault) : (recordFaults l s).engine = s.engine := rfl
@[simp] theorem recordFaults_mem (l : List Fault) : (recordFaults l s).mem = s.mem := rfl
@[simp] theorem recordFaults_platform (l : List Fault) : (recordFaults l s).platform = s.platform := rfl
@[simp] theorem recordFaults_faults (l : List Fault) : (recordFaults l s).faults = l ++ s.faults := rfl
@[simp] theorem recordFaults_raced (l : List Fault) : (recordFaults l s).raced = s.raced := rfl
@[simp] theorem recordFaults_agenda (l : List Fault) : (recordFaults l s).agenda = s.agenda := rfl
@[simp] theorem recordFaults_unsynced (l : List Fault) : (recordFaults l s).unsynced = s.unsynced := rfl
@[simp] theorem recordFaults_readData (l : List Fault) : (recordFaults l s).readData = s.readData := rfl
@[simp] theorem recordFaults_draws (l : List Fault) : (recordFaults l s).draws = s.draws := rfl

@[simp] theorem storeByte_irqEn (a : Nat) (b : Byte) : (storeByte a b s).irqEn = s.irqEn := rfl
@[simp] theorem storeByte_status (a : Nat) (b : Byte) : (storeByte a b s).status = s.status := rfl
@[simp] theorem storeByte_frame (a : Nat) (b : Byte) : (storeByte a b s).frame = s.frame := rfl
@[simp] theorem storeByte_repackResult (a : Nat) (b : Byte) : (storeByte a b s).repackResult = s.repackResult := rfl
@[simp] theorem storeByte_dstLen (a : Nat) (b : Byte) : (storeByte a b s).dstLen = s.dstLen := rfl
@[simp] theorem storeByte_recW (a : Nat) (b : Byte) : (storeByte a b s).recW = s.recW := rfl
@[simp] theorem storeByte_recH (a : Nat) (b : Byte) : (storeByte a b s).recH = s.recH := rfl
@[simp] theorem storeByte_unsupCount (a : Nat) (b : Byte) : (storeByte a b s).unsupCount = s.unsupCount := rfl
@[simp] theorem storeByte_audio (a : Nat) (b : Byte) : (storeByte a b s).audio = s.audio := rfl
@[simp] theorem storeByte_chL (a : Nat) (b : Byte) : (storeByte a b s).chL = s.chL := rfl
@[simp] theorem storeByte_chR (a : Nat) (b : Byte) : (storeByte a b s).chR = s.chR := rfl
@[simp] theorem storeByte_engine (a : Nat) (b : Byte) : (storeByte a b s).engine = s.engine := rfl
@[simp] theorem storeByte_mem (a : Nat) (b : Byte) : (storeByte a b s).mem = Memory.write s.mem a b := rfl
@[simp] theorem storeByte_platform (a : Nat) (b : Byte) : (storeByte a b s).platform = s.platform := rfl
@[simp] theorem storeByte_faults (a : Nat) (b : Byte) : (storeByte a b s).faults = s.faults := rfl
@[simp] theorem storeByte_raced (a : Nat) (b : Byte) : (storeByte a b s).raced = s.raced := rfl
@[simp] theorem storeByte_agenda (a : Nat) (b : Byte) : (storeByte a b s).agenda = s.agenda := rfl
@[simp] theorem storeByte_unsynced (a : Nat) (b : Byte) : (storeByte a b s).unsynced = s.unsynced := rfl
@[simp] theorem storeByte_readData (a : Nat) (b : Byte) : (storeByte a b s).readData = s.readData := rfl
@[simp] theorem storeByte_draws (a : Nat) (b : Byte) : (storeByte a b s).draws = s.draws := rfl

/-- `drawSpans` touches memory and the draw counter alone. -/
theorem drawSpans_eq (l : List Span) :
    drawSpans l s = { s with mem := (drawSpans l s).mem, draws := (drawSpans l s).draws } := by
  induction l generalizing s with
  | nil => rfl
  | cons sp l ih => exact ih (drawSpan sp s)

@[simp] theorem drawSpans_irqEn (l : List Span) : (drawSpans l s).irqEn = s.irqEn := by rw [drawSpans_eq]
@[simp] theorem drawSpans_status (l : List Span) : (drawSpans l s).status = s.status := by rw [drawSpans_eq]
@[simp] theorem drawSpans_frame (l : List Span) : (drawSpans l s).frame = s.frame := by rw [drawSpans_eq]
@[simp] theorem drawSpans_repackResult (l : List Span) : (drawSpans l s).repackResult = s.repackResult := by rw [drawSpans_eq]
@[simp] theorem drawSpans_dstLen (l : List Span) : (drawSpans l s).dstLen = s.dstLen := by rw [drawSpans_eq]
@[simp] theorem drawSpans_recW (l : List Span) : (drawSpans l s).recW = s.recW := by rw [drawSpans_eq]
@[simp] theorem drawSpans_recH (l : List Span) : (drawSpans l s).recH = s.recH := by rw [drawSpans_eq]
@[simp] theorem drawSpans_unsupCount (l : List Span) : (drawSpans l s).unsupCount = s.unsupCount := by rw [drawSpans_eq]
@[simp] theorem drawSpans_audio (l : List Span) : (drawSpans l s).audio = s.audio := by rw [drawSpans_eq]
@[simp] theorem drawSpans_chL (l : List Span) : (drawSpans l s).chL = s.chL := by rw [drawSpans_eq]
@[simp] theorem drawSpans_chR (l : List Span) : (drawSpans l s).chR = s.chR := by rw [drawSpans_eq]
@[simp] theorem drawSpans_engine (l : List Span) : (drawSpans l s).engine = s.engine := by rw [drawSpans_eq]
@[simp] theorem drawSpans_platform (l : List Span) : (drawSpans l s).platform = s.platform := by rw [drawSpans_eq]
@[simp] theorem drawSpans_agenda (l : List Span) : (drawSpans l s).agenda = s.agenda := by rw [drawSpans_eq]
@[simp] theorem drawSpans_unsynced (l : List Span) : (drawSpans l s).unsynced = s.unsynced := by rw [drawSpans_eq]
@[simp] theorem drawSpans_readData (l : List Span) : (drawSpans l s).readData = s.readData := by rw [drawSpans_eq]
@[simp] theorem drawSpans_raced (l : List Span) : (drawSpans l s).raced = s.raced := by rw [drawSpans_eq]
@[simp] theorem drawSpans_faults (l : List Span) : (drawSpans l s).faults = s.faults := by rw [drawSpans_eq]

@[simp] theorem drawSuspicion_irqEn (o : FrameRegs) : (drawSuspicion o s).irqEn = s.irqEn := rfl
@[simp] theorem drawSuspicion_status (o : FrameRegs) : (drawSuspicion o s).status = s.status := rfl
@[simp] theorem drawSuspicion_frame (o : FrameRegs) : (drawSuspicion o s).frame = s.frame := rfl
@[simp] theorem drawSuspicion_repackResult (o : FrameRegs) : (drawSuspicion o s).repackResult = repackResultWith o
    (o.uProbed && (Config.freeWord s.draws).getLsbD 0) (o.vProbed && (Config.freeWord s.draws).getLsbD 1) := rfl
@[simp] theorem drawSuspicion_dstLen (o : FrameRegs) : (drawSuspicion o s).dstLen = s.dstLen := rfl
@[simp] theorem drawSuspicion_recW (o : FrameRegs) : (drawSuspicion o s).recW = s.recW := rfl
@[simp] theorem drawSuspicion_recH (o : FrameRegs) : (drawSuspicion o s).recH = s.recH := rfl
@[simp] theorem drawSuspicion_unsupCount (o : FrameRegs) : (drawSuspicion o s).unsupCount = s.unsupCount := rfl
@[simp] theorem drawSuspicion_audio (o : FrameRegs) : (drawSuspicion o s).audio = s.audio := rfl
@[simp] theorem drawSuspicion_chL (o : FrameRegs) : (drawSuspicion o s).chL = s.chL := rfl
@[simp] theorem drawSuspicion_chR (o : FrameRegs) : (drawSuspicion o s).chR = s.chR := rfl
@[simp] theorem drawSuspicion_engine (o : FrameRegs) : (drawSuspicion o s).engine = s.engine := rfl
@[simp] theorem drawSuspicion_mem (o : FrameRegs) : (drawSuspicion o s).mem = s.mem := rfl
@[simp] theorem drawSuspicion_platform (o : FrameRegs) : (drawSuspicion o s).platform = s.platform := rfl
@[simp] theorem drawSuspicion_faults (o : FrameRegs) : (drawSuspicion o s).faults = s.faults := rfl
@[simp] theorem drawSuspicion_raced (o : FrameRegs) : (drawSuspicion o s).raced = s.raced := rfl
@[simp] theorem drawSuspicion_agenda (o : FrameRegs) : (drawSuspicion o s).agenda = s.agenda := rfl
@[simp] theorem drawSuspicion_unsynced (o : FrameRegs) : (drawSuspicion o s).unsynced = s.unsynced := rfl
@[simp] theorem drawSuspicion_readData (o : FrameRegs) : (drawSuspicion o s).readData = s.readData := rfl
@[simp] theorem drawSuspicion_draws (o : FrameRegs) : (drawSuspicion o s).draws = s.draws + 1 := rfl

@[simp] theorem drawChannels_irqEn : (drawChannels s).irqEn = s.irqEn := rfl
@[simp] theorem drawChannels_status : (drawChannels s).status = s.status := rfl
@[simp] theorem drawChannels_frame : (drawChannels s).frame = s.frame := rfl
@[simp] theorem drawChannels_repackResult : (drawChannels s).repackResult = s.repackResult := rfl
@[simp] theorem drawChannels_dstLen : (drawChannels s).dstLen = s.dstLen := rfl
@[simp] theorem drawChannels_recW : (drawChannels s).recW = s.recW := rfl
@[simp] theorem drawChannels_recH : (drawChannels s).recH = s.recH := rfl
@[simp] theorem drawChannels_unsupCount : (drawChannels s).unsupCount = s.unsupCount := rfl
@[simp] theorem drawChannels_audio : (drawChannels s).audio = s.audio := rfl
@[simp] theorem drawChannels_chL : (drawChannels s).chL = channelOfWord (Config.freeWord s.draws) := rfl
@[simp] theorem drawChannels_chR : (drawChannels s).chR = channelOfWord (Config.freeWord (s.draws + 1)) := rfl
@[simp] theorem drawChannels_engine : (drawChannels s).engine = s.engine := rfl
@[simp] theorem drawChannels_mem : (drawChannels s).mem = s.mem := rfl
@[simp] theorem drawChannels_platform : (drawChannels s).platform = s.platform := rfl
@[simp] theorem drawChannels_faults : (drawChannels s).faults = s.faults := rfl
@[simp] theorem drawChannels_raced : (drawChannels s).raced = s.raced := rfl
@[simp] theorem drawChannels_agenda : (drawChannels s).agenda = s.agenda := rfl
@[simp] theorem drawChannels_unsynced : (drawChannels s).unsynced = s.unsynced := rfl
@[simp] theorem drawChannels_readData : (drawChannels s).readData = s.readData := rfl
@[simp] theorem drawChannels_draws : (drawChannels s).draws = s.draws + 2 := rfl

/-- Two states are equal when they agree in every field. -/
theorem State.eq_of_fields {a b : State}
    (hIrqEn : a.irqEn = b.irqEn) (hStatus : a.status = b.status) (hFrame : a.frame = b.frame)
    (hRepackResult : a.repackResult = b.repackResult) (hDstLen : a.dstLen = b.dstLen) (hRecW : a.recW = b.recW)
    (hRecH : a.recH = b.recH) (hUnsupCount : a.unsupCount = b.unsupCount) (hAudio : a.audio = b.audio)
    (hChL : a.chL = b.chL) (hChR : a.chR = b.chR) (hEngine : a.engine = b.engine) (hMem : a.mem = b.mem)
    (hPlatform : a.platform = b.platform) (hFaults : a.faults = b.faults) (hRaced : a.raced = b.raced)
    (hAgenda : a.agenda = b.agenda) (hUnsynced : a.unsynced = b.unsynced) (hReadData : a.readData = b.readData)
    (hDraws : a.draws = b.draws) : a = b := by
  cases a; cases b; simp_all

@[simp] theorem busy_of_idle (h : s.engine = .idle) : s.busy = false := by simp [State.busy, h]

@[simp] theorem busy_of_command {s : State} {c : Command} (h : s.engine = .busy c) : s.busy = true := by
  simp [State.busy, h]

/-- BUSY is 0 exactly when the engine is IDLE (10_state.md R27). -/
theorem busy_eq_false_iff : s.busy = false ↔ s.engine = .idle := by
  cases h : s.engine <;> simp [State.busy, h]

/-- BUSY is 1 exactly when a command is in flight (10_state.md R27). -/
theorem busy_eq_true_iff : s.busy = true ↔ ∃ c, s.engine = .busy c := by
  cases h : s.engine <;> simp [State.busy, h]

end Sys2Proof.Machine
end

