-- ==== Sys2Proof/Laws/Adpcm.lean ====
section
/-! SUPPORT. The step function of a channel as integer arithmetic, and the lanes as folds of it (42_adpcm.md R161, R164). -/

namespace Sys2Proof.Machine

/-- The predictor after a nibble, clamped; narrowing to 16 bits loses nothing (42_adpcm.md R161). -/
theorem Channel.step_pred (c : Channel) (n : BitVec 4) :
    (c.step n).pred.toInt = min (max (if n.getLsbD 3
      then c.pred.toInt - nibbleDiff (stepSize c.idx.toNat) n
      else c.pred.toInt + nibbleDiff (stepSize c.idx.toNat) n) (-32768)) 32767 := by
  simp only [Channel.step, adpcmStep, clamp]
  rw [BitVec.toInt_ofInt, Int.bmod_eq_of_le] <;> omega

/-- The step index after a nibble, clamped; narrowing to 7 bits loses nothing (42_adpcm.md R161). -/
theorem Channel.step_idx (c : Channel) (n : BitVec 4) :
    ((c.step n).idx.toNat : Int) = min (max ((c.idx.toNat : Int) + indexDelta n) 0) 88 := by
  simp only [Channel.step, adpcmStep, clamp]
  rw [BitVec.toNat_ofInt]
  omega

/-- A step leaves the index in range, whatever it was (10_state.md R45). -/
theorem Channel.step_idx_le (c : Channel) (n : BitVec 4) : (c.step n).idx.toNat ≤ 88 := by
  have := Channel.step_idx c n
  omega

/-- Every size in the table is a 15-bit number, at least 7 (42_adpcm.md R160). -/
theorem stepSize_bounds (i : Nat) (h : i ≤ 88) :
    stepSize i = stepTable.getD i 0 ∧ 7 ≤ stepSize i ∧ stepSize i ≤ 32767 := by
  have : ∀ i : Fin 89, stepSize i = stepTable.getD i 0 ∧ 7 ≤ stepSize i ∧ stepSize i ≤ 32767 := by decide +kernel
  exact this ⟨i, by omega⟩

theorem laneAfter_zero (m : Memory) (a : Nat) (f : Byte → BitVec 4) (c : Channel) : laneAfter m a f c 0 = c := rfl

/-- One byte more is one step more (42_adpcm.md R164). -/
theorem laneAfter_succ (m : Memory) (a : Nat) (f : Byte → BitVec 4) (c : Channel) (n : Nat) :
    laneAfter m a f c (n + 1) = (laneAfter m a f c n).step (f (Memory.read m (a + n))) := by
  simp [laneAfter, List.range_succ]

/-- A lane depends on the bytes it reads alone. -/
theorem laneAfter_congr {m m' : Memory} (a : Nat) (f : Byte → BitVec 4) (c : Channel) (n : Nat)
    (h : ∀ j, j < n → Memory.read m (a + j) = Memory.read m' (a + j)) : laneAfter m a f c n = laneAfter m' a f c n := by
  induction n with
  | zero => rfl
  | succ n ih => rw [laneAfter_succ, laneAfter_succ, ih fun j hj => h j (by omega), h n (by omega)]

/-- The index of a lane stays in range (10_state.md R45). -/
theorem laneAfter_idx_le (m : Memory) (a : Nat) (f : Byte → BitVec 4) {c : Channel} (h : c.idx.toNat ≤ 88) (n : Nat) :
    (laneAfter m a f c n).idx.toNat ≤ 88 := by
  cases n with
  | zero => exact h
  | succ n => rw [laneAfter_succ]; exact Channel.step_idx_le _ _

end Sys2Proof.Machine
end

