-- ==== Sys2Proof/Laws/Memory.lean ====
section
/-! SUPPORT. The laws of memory: a read after each kind of write, and that every write keeps the canonical form and the
bounds of the address space. -/

namespace Sys2Proof.Machine

theorem Memory.read_erase (m : Memory) (a a' : Nat) :
    Memory.read (Memory.erase m a) a' = if a' = a then Memory.unlisted else Memory.read m a' := by
  induction m with
  | nil => simp [Memory.erase, Memory.read]
  | cons c m ih =>
    obtain ⟨k, b⟩ := c
    simp only [Memory.erase] at ih
    by_cases hk : k = a
    · subst hk
      simp only [Memory.erase, Memory.read, List.filter_cons, bne_self_eq_false, Bool.false_eq_true, if_false, ih]
      by_cases h : a' = k
      · simp [h]
      · simp [h, Ne.symm h]
    · simp only [Memory.erase, Memory.read, List.filter_cons, bne_iff_ne, ne_eq, hk, not_false_eq_true, if_true, ih]
      by_cases h : k = a'
      · simp [h, show ¬ a' = a from h ▸ hk]
      · simp [h]

theorem Memory.read_insert (m : Memory) (a a' : Nat) (b : Byte) (h : ∀ c ∈ m, c.1 ≠ a) :
    Memory.read (Memory.insert m a b) a' = if a' = a then b else Memory.read m a' := by
  induction m with
  | nil => simp [Memory.insert, Memory.read, eq_comm]
  | cons c m ih =>
    obtain ⟨k, d⟩ := c
    have hk : k ≠ a := h (k, d) (by simp)
    have ih := ih fun c hc => h c (by simp [hc])
    by_cases hlt : a < k
    · simp [Memory.insert, hlt, Memory.read, eq_comm]
    · simp only [Memory.insert, hlt, if_false, Memory.read, ih]
      by_cases h' : k = a'
      · simp [h', show ¬ a' = a from h' ▸ hk]
      · simp [h']

theorem Memory.ne_of_mem_erase {m : Memory} {a : Nat} {c : Host.Cell} (h : c ∈ Memory.erase m a) : c.1 ≠ a := by
  simpa [Memory.erase] using (List.mem_filter.mp h).2

/-- A read after a write of one byte (20_memory.md R61). -/
theorem Memory.read_write (m : Memory) (a a' : Nat) (b : Byte) :
    Memory.read (Memory.write m a b) a' = if a' = a then b else Memory.read m a' := by
  unfold Memory.write
  split
  · rename_i hb; rw [Memory.read_erase, hb]
  · rw [Memory.read_insert _ _ _ _ fun c hc => Memory.ne_of_mem_erase hc, Memory.read_erase]
    split <;> simp_all

/-- A read after a row is written. -/
theorem Memory.read_writeRow (m : Memory) (base n a : Nat) (f : Nat → Byte) :
    Memory.read (Memory.writeRow m base n f) a =
      if base ≤ a ∧ a < base + n then f (a - base) else Memory.read m a := by
  induction n with
  | zero => simp only [Memory.writeRow]; split <;> first | omega | rfl
  | succ n ih =>
    rw [Memory.writeRow, Memory.read_write, ih]
    by_cases h : a = base + n
    · subst h; simp
    · have : (base ≤ a ∧ a < base + (n + 1)) ↔ (base ≤ a ∧ a < base + n) := by omega
      simp [h, this]

/-- Inside the row, the written byte. -/
theorem Memory.read_writeRow_at (m : Memory) {base n k : Nat} (f : Nat → Byte) (h : k < n) :
    Memory.read (Memory.writeRow m base n f) (base + k) = f k := by
  rw [Memory.read_writeRow, if_pos ⟨by omega, by omega⟩]; congr 1; omega

/-- Outside the row, memory as it was. -/
theorem Memory.read_writeRow_outside (m : Memory) {base n a : Nat} (f : Nat → Byte)
    (h : a < base ∨ base + n ≤ a) : Memory.read (Memory.writeRow m base n f) a = Memory.read m a := by
  rw [Memory.read_writeRow, if_neg (by omega)]

/-- Outside the grid, memory as it was. -/
theorem Memory.read_writeGrid_outside (m : Memory) {base cols rows a : Nat} (f : Nat → Nat → Byte)
    (h : a < base ∨ base + rows * cols ≤ a) :
    Memory.read (Memory.writeGrid m base cols rows f) a = Memory.read m a := by
  induction rows with
  | zero => rfl
  | succ r ih =>
    have hs : (r + 1) * cols = r * cols + cols := Nat.succ_mul r cols
    rw [Memory.writeGrid, Memory.read_writeRow_outside _ _ (by omega), ih (by omega)]

/-- Inside the grid, the byte of the row and column. -/
theorem Memory.read_writeGrid_at (m : Memory) {base cols rows r c : Nat} (f : Nat → Nat → Byte)
    (hr : r < rows) (hc : c < cols) :
    Memory.read (Memory.writeGrid m base cols rows f) (base + r * cols + c) = f r c := by
  induction rows with
  | zero => omega
  | succ n ih =>
    rw [Memory.writeGrid]
    rcases Nat.lt_succ_iff_lt_or_eq.mp hr with h | rfl
    · have hs : (r + 1) * cols ≤ n * cols := Nat.mul_le_mul_right cols h
      rw [Nat.succ_mul] at hs
      rw [Memory.read_writeRow_outside _ _ (by omega), ih h]
    · exact Memory.read_writeRow_at _ _ hc

theorem Memory.mem_insert {m : Memory} {a : Nat} {b : Byte} {c : Host.Cell} :
    c ∈ Memory.insert m a b ↔ c = (a, b) ∨ c ∈ m := by
  induction m with
  | nil => simp [Memory.insert]
  | cons d m ih =>
    obtain ⟨k, e⟩ := d
    unfold Memory.insert
    split
    · simp
    · simp [ih, or_left_comm]

theorem Memory.wf_erase {m : Memory} (h : Memory.wf m) (a : Nat) : Memory.wf (Memory.erase m a) :=
  ⟨h.1.filter _, fun c hc => h.2 c (List.mem_filter.mp hc).1⟩

theorem Memory.wf_insert {m : Memory} (h : Memory.wf m) {a : Nat} {b : Byte} (ha : ∀ c ∈ m, c.1 ≠ a)
    (hb : b ≠ Memory.unlisted) : Memory.wf (Memory.insert m a b) := by
  refine ⟨?_, fun c hc => ?_⟩
  · replace h := h.1
    induction m with
    | nil => simp [Memory.insert]
    | cons d m ih =>
      obtain ⟨k, e⟩ := d
      have hk : k ≠ a := ha (k, e) (by simp)
      rw [List.pairwise_cons] at h
      unfold Memory.insert
      split
      · rename_i hlt
        refine List.pairwise_cons.mpr ⟨fun c hc => ?_, List.pairwise_cons.mpr h⟩
        rcases List.mem_cons.mp hc with rfl | hc
        · exact hlt
        · exact Nat.lt_trans hlt (h.1 c hc)
      · rename_i hlt
        refine List.pairwise_cons.mpr ⟨fun c hc => ?_, ih (fun c hc => ha c (by simp [hc])) h.2⟩
        rcases Memory.mem_insert.mp hc with rfl | hc
        · show k < a; omega
        · exact h.1 c hc
  · rcases Memory.mem_insert.mp hc with rfl | hc
    · exact hb
    · exact h.2 c hc

/-- Every write of a byte keeps the canonical form. -/
theorem Memory.wf_write {m : Memory} (h : Memory.wf m) (a : Nat) (b : Byte) : Memory.wf (Memory.write m a b) := by
  unfold Memory.write
  split
  · exact Memory.wf_erase h a
  · rename_i hb
    exact Memory.wf_insert (Memory.wf_erase h a) (fun c hc => Memory.ne_of_mem_erase hc) hb

theorem Memory.wf_writeRow {m : Memory} (h : Memory.wf m) (base n : Nat) (f : Nat → Byte) :
    Memory.wf (Memory.writeRow m base n f) := by
  induction n with
  | zero => exact h
  | succ n ih => exact Memory.wf_write ih _ _

theorem Memory.wf_writeGrid {m : Memory} (h : Memory.wf m) (base cols rows : Nat) (f : Nat → Nat → Byte) :
    Memory.wf (Memory.writeGrid m base cols rows f) := by
  induction rows with
  | zero => exact h
  | succ n ih => exact Memory.wf_writeRow ih _ _ _

theorem Memory.wf_write32 {m : Memory} (h : Memory.wf m) (a : Nat) (v : BitVec 32) :
    Memory.wf (Memory.write32 m a v) := Memory.wf_writeRow h _ _ _

/-- A write of a byte inside the bound `n` keeps every listed address inside it. -/
theorem Memory.bound_write {m : Memory} {n : Nat} (h : ∀ c ∈ m, c.1 < n) {a : Nat} (ha : a < n) (b : Byte) :
    ∀ c ∈ Memory.write m a b, c.1 < n := by
  intro c hc
  unfold Memory.write at hc
  split at hc
  · exact h c (List.mem_filter.mp hc).1
  · rcases Memory.mem_insert.mp hc with rfl | hc
    · exact ha
    · exact h c (List.mem_filter.mp hc).1

theorem Memory.bound_writeRow {m : Memory} {n : Nat} (h : ∀ c ∈ m, c.1 < n) {base len : Nat}
    (hb : len = 0 ∨ base + len ≤ n) (f : Nat → Byte) : ∀ c ∈ Memory.writeRow m base len f, c.1 < n := by
  induction len with
  | zero => exact h
  | succ k ih => exact Memory.bound_write (ih (by omega)) (by omega) _

theorem Memory.bound_writeGrid {m : Memory} {n : Nat} (h : ∀ c ∈ m, c.1 < n) {base cols rows : Nat}
    (hb : rows * cols = 0 ∨ base + rows * cols ≤ n) (f : Nat → Nat → Byte) :
    ∀ c ∈ Memory.writeGrid m base cols rows f, c.1 < n := by
  induction rows with
  | zero => exact h
  | succ k ih =>
    rw [Nat.succ_mul] at hb
    exact Memory.bound_writeRow (ih (by omega)) (by omega) _

/-- Memory right after reset at power-on is in canonical form. -/
theorem Memory.wf_reset : Memory.wf State.reset.mem := ⟨List.Pairwise.nil, nofun⟩

end Sys2Proof.Machine
end

