-- ==== Sys2Proof/Laws/Engine.lean ====
section
/-! SUPPORT. What the shared operations of the engine can do: the step around a command, the packed buffer of REPACK and
the loop of ADPCM_DECODE. -/

namespace Sys2Proof.Machine

/-- A command that is ready runs its body and completes (40_host_interface.md R108). -/
theorem runCommand_ready {c : Command} {s : State} (h : c.Ready s) (body : State → State) :
    runCommand c body s = .next (completeCommand (body s)) := by
  simp [runCommand, h.inSpace, h.admitted, h.idempotent, h.disjoint, h.unraced]

/-- A command the host has not raced with leaves the race mark alone. -/
theorem completeCommand_unraced {s : State} (h : s.raced = false) :
    completeCommand s = { s with engine := .idle, status := { s.status with done := true } } := by
  rw [completeCommand, ← h]

/-- Everything the engine's step can do, and it always answers a next state (60_exceptions.md R202: no fault is final). -/
theorem runCommand_cases (c : Command) (body : State → State) (s : State) :
    (c.overflows = true ∧ runCommand c body s = .next (completeCommand (raiseErrAddr s))) ∨
    (c.overflows = false ∧ c.admittedBy s.platform = false ∧ runCommand c body s = .next s) ∨
    (c.overflows = false ∧ c.admittedBy s.platform = true ∧
      (c.touchesSideEffects s.platform = true ∨ c.overlaps = true ∨ s.raced = true) ∧
      runCommand c body s = .next (completeCommand (faultedBody c body s))) ∨
    (c.Ready s ∧ runCommand c body s = .next (completeCommand (body s))) := by
  by_cases ho : c.overflows = true
  · exact .inl ⟨ho, by simp [runCommand, ho]⟩
  · by_cases ha : c.admittedBy s.platform = true
    · by_cases hf : c.touchesSideEffects s.platform = true ∨ c.overlaps = true ∨ s.raced = true
      · exact .inr (.inr (.inl ⟨by simpa using ho, ha, hf, by simp [runCommand, ho, ha, or_assoc, hf]⟩))
      · have hr : c.Ready s := by simp at hf ho; exact ⟨ho, ha, hf.1, hf.2.1, hf.2.2⟩
        exact .inr (.inr (.inr ⟨hr, runCommand_ready hr body⟩))
    · exact .inr (.inl ⟨by simpa using ho, by simpa using ha, by simp [runCommand, ho, ha]⟩)

/-- Running the form in flight is running its command (41_repack.md R138). -/
theorem withRepackInFlight_of_busy {s : State} {o : FrameRegs} (h : s.engine = .busy (.repack o))
    (run : FrameRegs → Host.Outcome State Fault Refusal) : withRepackInFlight o.fmt s run = run o := by
  simp [withRepackInFlight, h]

/-- The fill decision, spelt out (41_repack.md R129). -/
theorem FrameRegs.fill_eq (o : FrameRegs) (m : Memory) :
    o.fill m = (o.uMissing || o.vMissing || o.uSuspect m || o.vSuspect m || !supported o.fmt) := rfl

/-- REPACK_RESULT, spelt out (41_repack.md R136). -/
theorem repackResultOf_eq (o : FrameRegs) (m : Memory) :
    repackResultOf o m =
      { uMissing := o.uMissing
        vMissing := o.vMissing
        uSuspect := o.uSuspect m
        vSuspect := o.vSuspect m
        chromaFilled := o.fill m
        lumaAbsent := decide (o.p0Addr = 0#64)
        oddDim := o.oddDim
        unsupported := !supported o.fmt } := rfl

/-- The chroma source of a format; OTHER copies nothing and has none of its own (41_repack.md R130 to R134). -/
def chromaOf (m : Memory) (o : FrameRegs) : ChromaSource :=
  match fmtClass o.fmt with
  | .p420 => chromaP420 m o
  | .p422 => chromaP422 m o
  | .nvU => chromaNvU m o
  | .nvV => chromaNvV m o
  | .other => chromaP420 m o

/-- The memory of every REPACK is the packed buffer (41_repack.md R137). -/
theorem packedOther_eq (src : ChromaSource) {o : FrameRegs} (m : Memory) (h : supported o.fmt = false) :
    packedOther o m = packedMemory src o m := by
  simp [packedOther, packedMemory, FrameRegs.fill, FrameRegs.fillWith, h]

/-- Which FMT values a class has (30_encoding.md R82). -/
theorem fmtClass_inv (f : Byte) :
    (fmtClass f = .p420 ∧ (f = 0#8 ∨ f = 1#8)) ∨ (fmtClass f = .p422 ∧ (f = 2#8 ∨ f = 3#8)) ∨
    (fmtClass f = .nvU ∧ f = 4#8) ∨ (fmtClass f = .nvV ∧ f = 5#8) ∨ (fmtClass f = .other ∧ 6 ≤ f.toNat) := by
  revert f; decide +kernel

/-- What a REPACK in flight answers, in one line (41_repack.md R138). -/
theorem execRepack_eq {s : State} {o : FrameRegs} (h : s.engine = .busy (.repack o)) :
    execRepack s = runCommand (.repack o)
      (fun t => if supported o.fmt then repackBody (chromaOf s.mem o) o t
        else unsupportedNotice (repackBody (chromaOf s.mem o) o t)) s := by
  have hf : ∀ f run, f = o.fmt → withRepackInFlight f s run = run o := by
    intro f run hf; rw [hf]; exact withRepackInFlight_of_busy h run
  simp only [execRepack, h]
  rcases fmtClass_inv o.fmt with ⟨hc, h0⟩ | ⟨hc, h0⟩ | ⟨hc, h0⟩ | ⟨hc, h0⟩ | ⟨hc, h0⟩
  · rw [show supported o.fmt = true by simp [supported, hc]]
    simp only [hc, chromaOf, execRepackP420, if_true]
    exact hf _ _ (by rcases h0 with h0 | h0 <;> rw [h0] <;> rfl)
  · rw [show supported o.fmt = true by simp [supported, hc]]
    simp only [hc, chromaOf, execRepackP422, if_true]
    exact hf _ _ (by rcases h0 with h0 | h0 <;> rw [h0] <;> rfl)
  · rw [show supported o.fmt = true by simp [supported, hc]]
    simp only [hc, chromaOf, execRepackNvU, if_true]
    exact hf _ _ h0.symm
  · rw [show supported o.fmt = true by simp [supported, hc]]
    simp only [hc, chromaOf, execRepackNvV, if_true]
    exact hf _ _ h0.symm
  · have hs : supported o.fmt = false := by simp [supported, hc]
    simp only [hc, execRepackOther, hs, Bool.false_eq_true, if_false]
    rw [hf _ _ rfl]
    congr 1
    funext t
    rw [packedOther_eq (chromaOf s.mem o) _ hs]
    rfl

theorem copyLuma_outside (m src : Memory) (o : FrameRegs) {a : Nat}
    (h : a < o.dstAddr.toNat ∨ o.dstAddr.toNat + o.ySize ≤ a) :
    Memory.read (copyLuma src o m) a = Memory.read m a := by
  refine Memory.read_writeGrid_outside _ _ ?_
  have : o.height.toNat * o.width.toNat = o.ySize := Nat.mul_comm _ _
  omega

/-- The chroma part of the buffer is written above the luma region (30_encoding.md R86). -/
theorem packedMemory_luma (src : ChromaSource) (o : FrameRegs) (m : Memory) {a : Nat}
    (h : a < o.dstAddr.toNat + o.ySize) :
    Memory.read (packedMemory src o m) a = Memory.read (copyLuma m o m) a := by
  unfold packedMemory
  split
  · exact Memory.read_writeRow_outside _ _ (by omega)
  · rw [copyChroma, Memory.read_writeGrid_outside _ _ (by omega), Memory.read_writeGrid_outside _ _ (by omega)]

/-- The luma region of the packed buffer (41_repack.md R125). -/
theorem packedMemory_luma_at (src : ChromaSource) (o : FrameRegs) (m : Memory) {r c : Nat}
    (hr : r < o.height.toNat) (hc : c < o.width.toNat) :
    Memory.read (packedMemory src o m) (o.dstAddr.toNat + r * o.width.toNat + c) = lumaByte m o r c := by
  have hs : (r + 1) * o.width.toNat ≤ o.height.toNat * o.width.toNat := Nat.mul_le_mul_right _ hr
  have hy : o.ySize = o.height.toNat * o.width.toNat := Nat.mul_comm _ _
  rw [Nat.succ_mul] at hs
  rw [packedMemory_luma _ _ _ (by omega)]
  exact Memory.read_writeGrid_at _ _ hr hc

/-- The filled chroma regions (41_repack.md R129). -/
theorem packedMemory_fill_at (src : ChromaSource) (o : FrameRegs) (m : Memory) {k : Nat} (hf : o.fill m = true)
    (hk : k < 2 * o.uvSize) :
    Memory.read (packedMemory src o m) (o.dstAddr.toNat + o.ySize + k) = 128#8 := by
  simp only [packedMemory, hf, if_true]
  exact Memory.read_writeRow_at _ _ hk

theorem chroma_offset_lt {o : FrameRegs} {r c : Nat} (hr : r < o.uvHeight) (hc : c < o.uvWidth) :
    r * o.uvWidth + c < o.uvSize := by
  have hs : (r + 1) * o.uvWidth ≤ o.uvHeight * o.uvWidth := Nat.mul_le_mul_right _ hr
  have : o.uvSize = o.uvHeight * o.uvWidth := Nat.mul_comm _ _
  rw [Nat.succ_mul] at hs
  omega

/-- The copied U region (41_repack.md R130 to R133). -/
theorem packedMemory_u_at (src : ChromaSource) (o : FrameRegs) (m : Memory) {r c : Nat} (hf : o.fill m = false)
    (hr : r < o.uvHeight) (hc : c < o.uvWidth) :
    Memory.read (packedMemory src o m) (o.dstAddr.toNat + o.ySize + r * o.uvWidth + c) = src.u r c := by
  have := chroma_offset_lt hr hc
  simp only [packedMemory, hf, copyChroma]
  rw [if_neg (by simp), Memory.read_writeGrid_outside _ _ (by omega), Memory.read_writeGrid_at _ _ hr hc]

/-- The copied V region (41_repack.md R130 to R133). -/
theorem packedMemory_v_at (src : ChromaSource) (o : FrameRegs) (m : Memory) {r c : Nat} (hf : o.fill m = false)
    (hr : r < o.uvHeight) (hc : c < o.uvWidth) :
    Memory.read (packedMemory src o m) (o.dstAddr.toNat + o.ySize + o.uvSize + r * o.uvWidth + c) = src.v r c := by
  simp only [packedMemory, hf, copyChroma]
  rw [if_neg (by simp), Memory.read_writeGrid_at _ _ hr hc]

/-- Outside `[DST, DST + L)` nothing is written (41_repack.md R137). -/
theorem packedMemory_outside (src : ChromaSource) (o : FrameRegs) (m : Memory) {a : Nat}
    (h : a < o.dstAddr.toNat ∨ o.dstAddr.toNat + o.bufLen ≤ a) :
    Memory.read (packedMemory src o m) a = Memory.read m a := by
  have hL : o.bufLen = o.ySize + 2 * o.uvSize := rfl
  have hu : o.uvSize = o.uvHeight * o.uvWidth := Nat.mul_comm _ _
  unfold packedMemory
  split
  · rw [neutralFill, Memory.read_writeRow_outside _ _ (by omega), copyLuma_outside _ _ _ (by omega)]
  · rw [copyChroma, Memory.read_writeGrid_outside _ _ (by omega), Memory.read_writeGrid_outside _ _ (by omega),
      copyLuma_outside _ _ _ (by omega)]

/-- The packed buffer keeps the canonical form. -/
theorem wf_packedMemory (src : ChromaSource) (o : FrameRegs) {m : Memory} (h : Memory.wf m) :
    Memory.wf (packedMemory src o m) := by
  unfold packedMemory
  split
  · exact Memory.wf_writeRow (Memory.wf_writeGrid h _ _ _ _) _ _ _
  · exact Memory.wf_writeGrid (Memory.wf_writeGrid (Memory.wf_writeGrid h _ _ _ _) _ _ _ _) _ _ _ _

/-- The packed buffer of a command that stays inside memory keeps every listed address inside it. -/
theorem bound_packedMemory (src : ChromaSource) (o : FrameRegs) {m : Memory} {n : Nat} (h : ∀ c ∈ m, c.1 < n)
    (hb : o.bufLen = 0 ∨ o.dstAddr.toNat + o.bufLen ≤ n) : ∀ c ∈ packedMemory src o m, c.1 < n := by
  have hL : o.bufLen = o.ySize + 2 * o.uvSize := rfl
  have hu : o.uvSize = o.uvHeight * o.uvWidth := Nat.mul_comm _ _
  have hy : o.ySize = o.height.toNat * o.width.toNat := Nat.mul_comm _ _
  have hl : ∀ c ∈ copyLuma m o m, c.1 < n := Memory.bound_writeGrid h (by omega) _
  unfold packedMemory
  split
  · exact Memory.bound_writeRow hl (by omega) _
  · exact Memory.bound_writeGrid (Memory.bound_writeGrid hl (by omega) _) (by omega) _

/-- The two lanes of the decoding loop are left folds of the step function (42_adpcm.md R164). -/
theorem decodeLoop_lanes (src : Memory) (a out : Nat) (d : Decoding) (n : Nat) :
    (decodeLoop src a out d n).left = laneAfter src a highNibble d.left n ∧
    (decodeLoop src a out d n).right = laneAfter src a lowNibble d.right n := by
  induction n with
  | zero => exact ⟨rfl, rfl⟩
  | succ n ih =>
    simp only [decodeLoop, Decoding.turn, laneAfter, List.range_succ, List.foldl_append, List.foldl_cons,
      List.foldl_nil] at ih ⊢
    exact ⟨by rw [ih.1], by rw [ih.2]⟩

/-- Outside `[OUT, OUT + 8N)` the decoding loop writes nothing (42_adpcm.md R163). -/
theorem decodeLoop_outside (src : Memory) (a out : Nat) (d : Decoding) (n : Nat) {x : Nat}
    (h : x < out ∨ out + 8 * n ≤ x) : Memory.read (decodeLoop src a out d n).mem x = Memory.read d.mem x := by
  induction n with
  | zero => rfl
  | succ n ih =>
    simp only [decodeLoop, Decoding.turn, Memory.write32]
    rw [Memory.read_writeRow_outside _ _ (by omega), Memory.read_writeRow_outside _ _ (by omega), ih (by omega)]

/-- Pair `j` of the decoding loop, byte by byte (30_encoding.md R87). -/
theorem decodeLoop_pair (src : Memory) (a out : Nat) (d : Decoding) {n j i : Nat} (hj : j < n) (hi : i < 4) :
    Memory.read (decodeLoop src a out d n).mem (out + 8 * j + i) =
      (laneAfter src a highNibble d.left (j + 1)).sample.extractLsb' (8 * i) 8 ∧
    Memory.read (decodeLoop src a out d n).mem (out + 8 * j + 4 + i) =
      (laneAfter src a lowNibble d.right (j + 1)).sample.extractLsb' (8 * i) 8 := by
  induction n with
  | zero => omega
  | succ n ih =>
    rcases Nat.lt_succ_iff_lt_or_eq.mp hj with h | rfl
    · simp only [decodeLoop, Decoding.turn, Memory.write32]
      rw [Memory.read_writeRow_outside _ _ (by omega), Memory.read_writeRow_outside _ _ (by omega),
        Memory.read_writeRow_outside _ _ (by omega), Memory.read_writeRow_outside _ _ (by omega)]
      exact ih h
    · obtain ⟨hl, hr⟩ := decodeLoop_lanes src a out d (j + 1)
      rw [← hl, ← hr]
      simp only [decodeLoop, Decoding.turn, Memory.write32]
      exact ⟨by rw [Memory.read_writeRow_outside _ _ (by omega), Memory.read_writeRow_at _ _ hi],
        by rw [Memory.read_writeRow_at _ _ hi]⟩

theorem wf_decodeLoop (src : Memory) (a out : Nat) {d : Decoding} (h : Memory.wf d.mem) (n : Nat) :
    Memory.wf (decodeLoop src a out d n).mem := by
  induction n with
  | zero => exact h
  | succ n ih => exact Memory.wf_write32 (Memory.wf_write32 ih _ _) _ _

theorem bound_decodeLoop (src : Memory) (a out : Nat) {d : Decoding} {b : Nat} (h : ∀ c ∈ d.mem, c.1 < b) (n : Nat)
    (hb : n = 0 ∨ out + 8 * n ≤ b) : ∀ c ∈ (decodeLoop src a out d n).mem, c.1 < b := by
  induction n with
  | zero => exact h
  | succ n ih =>
    exact Memory.bound_writeRow (Memory.bound_writeRow (ih (by omega)) (by omega) _) (by omega) _

/-- Step 7 of REPACK as one record: the recorded dimensions become (W, H) either way (41_repack.md R121). -/
theorem updateRecordedDims_eq (o : FrameRegs) (s : State) :
    updateRecordedDims o s = { s with
      recW := o.width
      recH := o.height
      status := { s.status with diagDim := s.status.diagDim || dimChanged o s } } := by
  unfold updateRecordedDims
  by_cases h : o.width = s.recW ∧ o.height = s.recH
  · rw [h.1, h.2]; simp [dimChanged, h]
  · simp only [dimChanged, h]; simp

/-- The body of REPACK as one record (41_repack.md R138). -/
theorem repackBody_eq (src : ChromaSource) (o : FrameRegs) (s : State) :
    repackBody src o s = { s with
      recW := o.width
      recH := o.height
      status := { s.status with diagDim := s.status.diagDim || dimChanged o s }
      dstLen := BitVec.ofNat 64 o.bufLen
      mem := packedMemory src o s.mem
      repackResult := repackResultOf o s.mem } := by
  simp only [repackBody, updateRecordedDims_eq]

/-- The body of a command: what `runCommand` does when the command is ready. -/
def commandBody (c : Command) (s : State) : State :=
  match c with
  | .repack o =>
    if supported o.fmt then repackBody (chromaOf s.mem o) o s
    else unsupportedNotice (repackBody (chromaOf s.mem o) o s)
  | .adpcmDecode o => decodeBody o s
  | .adpcmReset => { s with chL := ⟨0#16, 0#7⟩, chR := ⟨0#16, 0#7⟩ }

theorem runCommand_congr {c : Command} {f g : State → State} {s : State} (h : f s = g s) :
    runCommand c f s = runCommand c g s := by
  simp [runCommand, faultedBody, h]

/-- What the instruction of the command in flight answers, for every command (40_host_interface.md R108). -/
theorem exec_commandInstr {s : State} {c : Command} (h : s.engine = .busy c) :
    exec (commandInstr c) s = runCommand c (commandBody c) s := by
  cases c with
  | repack o => exact (execRepack_eq h).trans (runCommand_congr rfl)
  | adpcmDecode o => simp only [commandInstr, exec, execAdpcmDecode, h]; exact runCommand_congr rfl
  | adpcmReset => simp only [commandInstr, exec, execAdpcmReset, h]; exact runCommand_congr rfl

/-- What no command's body touches: the operand registers, CTRL, the engine phase, the error bits, the platform and the
model's own fields, the fault record among them. -/
theorem commandBody_keeps (c : Command) (s : State) :
    (commandBody c s).irqEn = s.irqEn ∧ (commandBody c s).frame = s.frame ∧ (commandBody c s).audio = s.audio ∧
    (commandBody c s).engine = s.engine ∧ (commandBody c s).platform = s.platform ∧
    (commandBody c s).agenda = s.agenda ∧ (commandBody c s).unsynced = s.unsynced ∧
    (commandBody c s).readData = s.readData ∧ (commandBody c s).draws = s.draws ∧
    (commandBody c s).status.errCmd = s.status.errCmd ∧ (commandBody c s).status.errBusy = s.status.errBusy ∧
    (commandBody c s).status.errAddr = s.status.errAddr ∧ (commandBody c s).faults = s.faults ∧
    (commandBody c s).raced = s.raced := by
  cases c with
  | repack o => simp only [commandBody, repackBody_eq, unsupportedNotice]; split <;> simp
  | adpcmDecode o => simp [commandBody, decodeBody]
  | adpcmReset => simp [commandBody]

/-- Everything `drawSpans` can do: it draws bytes of the spans and no other, and keeps the canonical form. -/
theorem drawSpans_spec (l : List Span) (s : State) :
    ∃ m d, drawSpans l s = { s with mem := m, draws := d } ∧
      (∀ a, (∀ sp ∈ l, sp.contains a = false) → Memory.read m a = Memory.read s.mem a) ∧
      (Memory.wf s.mem → Memory.wf m) ∧
      ∀ n, (∀ c ∈ s.mem, c.1 < n) → (∀ sp ∈ l, sp.len = 0 ∨ sp.base + sp.len ≤ n) → ∀ c ∈ m, c.1 < n := by
  induction l generalizing s with
  | nil => exact ⟨s.mem, s.draws, rfl, fun _ _ => rfl, id, fun _ h _ => h⟩
  | cons sp l ih =>
    obtain ⟨m, d, he, hr, hw, hb⟩ := ih (drawSpan sp s)
    refine ⟨m, d, he, fun a ha => ?_, fun h => hw (Memory.wf_writeRow h _ _ _), fun n h hn => ?_⟩
    · rw [hr a fun q hq => ha q (.tail _ hq)]
      refine Memory.read_writeRow_outside _ _ ?_
      have := ha sp (.head _)
      simp [Span.contains] at this
      omega
    · exact hb n (Memory.bound_writeRow h (hn sp (.head _)) _) fun q hq => hn q (.tail _ hq)

/-- What `drawSpans` draws depends on memory and the draw counter alone. -/
theorem drawSpans_congr (l : List Span) {s s' : State} (hm : s.mem = s'.mem) (hd : s.draws = s'.draws) :
    (drawSpans l s).mem = (drawSpans l s').mem ∧ (drawSpans l s).draws = (drawSpans l s').draws := by
  induction l generalizing s s' with
  | nil => exact ⟨hm, hd⟩
  | cons sp l ih => exact ih (s := drawSpan sp s) (s' := drawSpan sp s') (by simp [hm, hd]) (by simp [hd])

/-- A drawn channel is in range (10_state.md R41, R45). -/
theorem channelOfWord_idx (v : Word) : (channelOfWord v).idx.toNat ≤ 88 := by
  have h : ∀ x : BitVec 7, (legaliseIdx x).toNat ≤ 88 := by decide +kernel
  exact h _

/-- Everything `forgetReads` can do: it draws the write set, and of the registers only those the command computes from
the bytes it reads. -/
theorem forgetReads_spec (c : Command) (s : State) :
    ∃ m d rr l r, forgetReads c s = { s with mem := m, draws := d, repackResult := rr, chL := l, chR := r } ∧
      (∀ a, c.writeSet.contains a = false → Memory.read m a = Memory.read s.mem a) ∧
      (Memory.wf s.mem → Memory.wf m) ∧
      (∀ n, (∀ x ∈ s.mem, x.1 < n) → (c.writeSet.len = 0 ∨ c.writeSet.base + c.writeSet.len ≤ n) → ∀ x ∈ m, x.1 < n) ∧
      match c with
      | .repack o => l = s.chL ∧ r = s.chR ∧ ∃ u v, rr = repackResultWith o (o.uProbed && u) (o.vProbed && v)
      | .adpcmDecode o => rr = s.repackResult ∧ if o.srcLen = 0#32 then l = s.chL ∧ r = s.chR
        else l.idx.toNat ≤ 88 ∧ r.idx.toNat ≤ 88
      | .adpcmReset => rr = s.repackResult ∧ l = s.chL ∧ r = s.chR := by
  have out : ∀ (sp : Span) (f : Nat → Byte) (a : Nat), sp.contains a = false →
      Memory.read (Memory.writeRow s.mem sp.base sp.len f) a = Memory.read s.mem a := by
    intro sp f a ha
    refine Memory.read_writeRow_outside _ _ ?_
    simp [Span.contains] at ha
    omega
  cases c with
  | repack o =>
    exact ⟨_, _, _, _, _, rfl, fun a ha => out _ _ a ha, fun h => Memory.wf_writeRow h _ _ _,
      fun n h hn => Memory.bound_writeRow h hn _, rfl, rfl, _, _, rfl⟩
  | adpcmDecode o =>
    by_cases h0 : o.srcLen = 0#32
    · exact ⟨s.mem, s.draws, _, s.chL, s.chR, by simp only [forgetReads, h0, if_true], fun _ _ => rfl, id,
        fun _ h _ => h, rfl, by simp [h0]⟩
    · refine ⟨_, _, _, _, _, by simp only [forgetReads, h0, if_false]; rfl, fun a ha => out _ _ a ha,
        fun h => Memory.wf_writeRow h _ _ _, fun n h hn => Memory.bound_writeRow h hn _, rfl, ?_⟩
      simp only [h0, if_false]
      exact ⟨channelOfWord_idx _, channelOfWord_idx _⟩
  | adpcmReset => exact ⟨_, _, _, _, _, rfl, fun _ _ => rfl, id, fun _ h _ => h, rfl, rfl, rfl⟩

/-- The footprint bytes with read side effects lie in the footprint, so inside memory when it does not overflow. -/
theorem sideEffectSpans_bound {c : Command} (p : Platform) (h : c.overflows = false) {sp : Span}
    (hs : sp ∈ c.sideEffectSpans p) : sp.len = 0 ∨ sp.base + sp.len ≤ 2 ^ 64 := by
  simp only [Command.sideEffectSpans, List.mem_flatMap, List.mem_map] at hs
  obtain ⟨x, hx, q, -, rfl⟩ := hs
  have := (List.any_eq_false.mp h) x hx
  simp [Span.overflows] at this
  simp only [Span.inter]
  omega

/-- What a command that met a fault leaves: the body's effect, but for the fault record, the bytes of the write set and of
the footprint with read side effects, and the registers computed from what was read (notes/assumptions/14.md). -/
theorem faultedBody_spec (c : Command) (body : State → State) (s : State) :
    ∃ m d rr l r, faultedBody c body s = { body s with
        mem := m, draws := d, repackResult := rr, chL := l, chR := r
        faults := c.faultsOn s.platform ++ (body s).faults } ∧
      (∀ a, c.writeSet.contains a = false → (∀ sp ∈ c.sideEffectSpans s.platform, sp.contains a = false) →
        Memory.read m a = Memory.read (body s).mem a) ∧
      (Memory.wf (body s).mem → Memory.wf m) ∧
      (c.overflows = false → (∀ x ∈ (body s).mem, x.1 < 2 ^ 64) → ∀ x ∈ m, x.1 < 2 ^ 64) ∧
      match c with
      | .repack o =>
        l = (body s).chL ∧ r = (body s).chR ∧ ∃ u v, rr = repackResultWith o (o.uProbed && u) (o.vProbed && v)
      | .adpcmDecode o => rr = (body s).repackResult ∧ if o.srcLen = 0#32 then l = (body s).chL ∧ r = (body s).chR
        else l.idx.toNat ≤ 88 ∧ r.idx.toNat ≤ 88
      | .adpcmReset => rr = (body s).repackResult ∧ l = (body s).chL ∧ r = (body s).chR := by
  obtain ⟨m, d, rr, l, r, he, hr, hw, hb, hc⟩ := forgetReads_spec c (body s)
  obtain ⟨m', d', he', hr', hw', hb'⟩ := drawSpans_spec (c.sideEffectSpans s.platform) (forgetReads c (body s))
  rw [he] at he' hr' hw' hb'
  refine ⟨m', d', rr, l, r, by simp only [faultedBody, he, he', recordFaults], fun a h1 h2 => by rw [hr' a h2, hr a h1],
    fun h => hw' (hw h), fun ho h => hb' _ (hb _ h ?_) fun sp hs => sideEffectSpans_bound _ ho hs, hc⟩
  have := (List.any_eq_false.mp ho) c.writeSet (.head _)
  simp [Span.overflows] at this
  omega

end Sys2Proof.Machine
end

