-- ==== Sys2Proof/Laws/Registers.lean ====
section
/-! SUPPORT. The laws of the register map and of the address spans: which slot is which register, what a write of one
register leaves of the others, and membership in a span. -/

namespace Sys2Proof

/-- Membership in a span, as arithmetic. -/
theorem Span.contains_iff (sp : Span) (a : Nat) : sp.contains a = true ↔ sp.base ≤ a ∧ a < sp.base + sp.len := by
  simp [Span.contains]

/-- Membership in the common part of two spans. -/
theorem Span.inter_contains (x y : Span) (a : Nat) :
    (x.inter y).contains a = true ↔ x.contains a = true ∧ y.contains a = true := by
  simp only [Span.contains_iff, Span.inter]; omega

/-- Two spans meet when an address lies in both. -/
theorem Span.meets_iff (x y : Span) : x.meets y = true ↔ ∃ a, x.contains a = true ∧ y.contains a = true := by
  simp only [Span.meets, Span.contains_iff, decide_eq_true_eq]
  constructor
  · intro h; exact ⟨max x.base y.base, by omega, by omega⟩
  · rintro ⟨a, h1, h2⟩; omega

/-- A span overflows when it holds an address above 2^64 - 1. -/
theorem Span.overflows_iff (sp : Span) : sp.overflows = true ↔ ∃ a, sp.contains a = true ∧ 2 ^ 64 - 1 < a := by
  simp only [Span.overflows, Span.contains_iff, decide_eq_true_eq]
  constructor
  · intro h; exact ⟨sp.base + sp.len - 1, by omega, by omega⟩
  · rintro ⟨a, h1, h2⟩; omega

/-- `Span.all` is `for every address of the span`. -/
theorem Span.all_iff (sp : Span) (p : Nat → Bool) :
    sp.all p = true ↔ ∀ a, sp.contains a = true → p a = true := by
  simp only [Span.all, Span.contains_iff, List.all_eq_true, List.mem_range]
  constructor
  · intro h a ha
    have := h (a - sp.base) (by omega)
    rwa [Nat.add_sub_of_le ha.1] at this
  · intro h k hk; exact h _ ⟨by omega, by omega⟩

namespace Machine

/-- Slot 2 and no other is STATUS (10_state.md R24). -/
theorem slotReg_eq_status (k : BitVec 5) : slotReg k = .status ↔ k = 2#5 := by revert k; decide +kernel

/-- Slot 1 and no other is CTRL. -/
theorem slotReg_eq_ctrl (k : BitVec 5) : slotReg k = .ctrl ↔ k = 1#5 := by revert k; decide +kernel

/-- Slot 3 and no other is CMD. -/
theorem slotReg_eq_cmd (k : BitVec 5) : slotReg k = .cmd ↔ k = 3#5 := by revert k; decide +kernel

/-- Slots 21 and 22 are the channels. -/
theorem slotReg_channel (k : BitVec 5) : (slotReg k = .chL ∨ slotReg k = .chR) ↔ (k = 21#5 ∨ k = 22#5) := by
  revert k; decide +kernel

/-- Two slots share a register only where both are reserved (10_state.md R42). -/
theorem slotReg_inj (j k : BitVec 5) (h : slotReg j = slotReg k) : j = k ∨ slotReg j = .reserved := by
  revert j k; decide +kernel

/-- What a landed write leaves whatever the register: memory, the engine phase and the model's own fields. -/
theorem writeReg_keeps (r : Reg) (v : Word) (s : State) :
    (writeReg r v s).mem = s.mem ∧ (writeReg r v s).engine = s.engine ∧
    (writeReg r v s).platform = s.platform ∧ (writeReg r v s).agenda = s.agenda ∧
    (writeReg r v s).unsynced = s.unsynced ∧ (writeReg r v s).readData = s.readData ∧
    (writeReg r v s).draws = s.draws ∧ (writeReg r v s).faults = s.faults ∧ (writeReg r v s).raced = s.raced ∧ (r ≠ .status → (writeReg r v s).status = s.status) := by
  cases r <;> simp [writeReg]

/-- A landed write leaves every other register (40_host_interface.md R101). -/
theorem regWord_writeReg_ne {r q : Reg} (v : Word) (s : State) (hq : q ≠ r) :
    regWord q (writeReg r v s) = regWord q s := by
  cases r <;> cases q <;> first | exact absurd rfl hq | rfl

end Machine

end Sys2Proof
end

