-- ==== Sys2Proof/Laws/Footprint.lean ====
section
/-! SUPPORT. The footprints as sets: each check of the engine's step, which the model computes over spans, is the rule's own
statement over the sets of 41_repack.md R124 and 42_adpcm.md R170. -/

namespace Sys2Proof.Machine

/-- WR as a set is the write set's span (41_repack.md R124, 42_adpcm.md R170). -/
theorem Command.writesAt_iff (c : Command) (a : Nat) : c.WritesAt a ↔ c.writeSet.contains a = true := by
  rw [Span.contains_iff]
  cases c <;> simp only [Command.WritesAt, Command.writeSet]
  · constructor
    · rintro ⟨k, h, rfl⟩; exact ⟨by omega, by omega⟩
    · rintro ⟨h1, h2⟩; exact ⟨a - BitVec.toNat _, by omega, (Nat.add_sub_of_le h1).symm⟩
  · constructor
    · rintro ⟨k, h, rfl⟩; exact ⟨by omega, by omega⟩
    · rintro ⟨h1, h2⟩; exact ⟨a - BitVec.toNat _, by omega, (Nat.add_sub_of_le h1).symm⟩
  · simp

theorem contains_mk (b n a : Nat) : (Span.mk b n).contains a = true ↔ b ≤ a ∧ a < b + n := Span.contains_iff _ _

/-- Whether one of the spans holds the address. -/
def Covers (l : List Span) (a : Nat) : Prop := ∃ sp ∈ l, sp.contains a = true

theorem covers_append (x y : List Span) (a : Nat) : Covers (x ++ y) a ↔ Covers x a ∨ Covers y a := by
  simp [Covers, or_and_right, exists_or]

theorem covers_unlessNull (p : Word) (x : List Span) (a : Nat) : Covers (unlessNull p x) a ↔ p ≠ 0#64 ∧ Covers x a := by
  unfold unlessNull; split <;> simp_all [Covers]

theorem covers_planeSpans (b st r c a : Nat) :
    Covers (planeSpans b st r c) a ↔ ∃ i j, i < r ∧ j < c ∧ a = b + i * st + j := by
  simp only [Covers, planeSpans, List.mem_map, List.mem_range]
  constructor
  · rintro ⟨_, ⟨i, hi, rfl⟩, h⟩
    rw [contains_mk] at h
    exact ⟨i, a - (b + i * st), hi, by omega, by omega⟩
  · rintro ⟨i, j, hi, hj, rfl⟩
    exact ⟨_, ⟨i, hi, rfl⟩, by rw [contains_mk]; exact ⟨by omega, by omega⟩⟩

theorem covers_probeSpans (o : FrameRegs) (b a : Nat) :
    Covers (o.probeSpans b) a ↔ ∃ off ∈ o.probes, a = b + off := by
  simp only [Covers, FrameRegs.probeSpans, List.mem_map]
  constructor
  · rintro ⟨_, ⟨i, hi, rfl⟩, h⟩
    rw [contains_mk] at h
    exact ⟨i, hi, by omega⟩
  · rintro ⟨i, hi, rfl⟩
    exact ⟨_, ⟨i, hi, rfl⟩, by rw [contains_mk]; exact ⟨by omega, by omega⟩⟩

/-- RD as a set is the union of the read spans (41_repack.md R124, 42_adpcm.md R170). -/
theorem Command.readsAt_iff (c : Command) (a : Nat) : c.ReadsAt a ↔ Covers c.readSet a := by
  cases c with
  | adpcmReset => simp [Command.ReadsAt, Command.readSet, Covers]
  | adpcmDecode o =>
    simp only [Command.ReadsAt, Command.readSet, Covers, List.mem_singleton, exists_eq_left, Span.contains_iff]
    constructor
    · rintro ⟨j, hj, rfl⟩; exact ⟨by omega, by omega⟩
    · rintro ⟨h1, h2⟩; exact ⟨a - BitVec.toNat _, by omega, (Nat.add_sub_of_le h1).symm⟩
  | repack o =>
    simp only [Command.ReadsAt, Command.readSet, FrameRegs.readSet, covers_append, covers_unlessNull, covers_planeSpans, FrameRegs.ReadsAt]
    have hi : ∀ (p : Prop) [Decidable p] (l : List Span), Covers (if p then l else []) a ↔ p ∧ Covers l a := by
      intro p _ l; split <;> simp_all [Covers]
    have hj : ∀ (p : Prop) [Decidable p] (l : List Span), Covers (if p then [] else l) a ↔ ¬ p ∧ Covers l a := by
      intro p _ l; split <;> simp_all [Covers]
    rw [hi]
    simp only [covers_append, covers_unlessNull, covers_probeSpans, hj, Bool.not_eq_true]
    have e2 : ∀ i st, i * (2 * st) = 2 * i * st := by intros; ring
    have hn : Covers [] a ↔ False := by simp [Covers]
    have hcr : Covers o.copyReads a ↔
      (fmtClass o.fmt = .p420 ∧ ∃ r c, r < o.uvHeight ∧ c < o.uvWidth ∧
    ((o.p1Addr ≠ 0#64 ∧ a = o.p1Addr.toNat + r * o.p1Stride.toNat + c) ∨
     (o.p2Addr ≠ 0#64 ∧ a = o.p2Addr.toNat + r * o.p2Stride.toNat + c))) ∨
     (fmtClass o.fmt = .p422 ∧ ∃ r c, r < o.uvHeight ∧ c < o.uvWidth ∧
    ((o.p1Addr ≠ 0#64 ∧ a = o.p1Addr.toNat + 2 * r * o.p1Stride.toNat + c) ∨
     (o.p2Addr ≠ 0#64 ∧ a = o.p2Addr.toNat + 2 * r * o.p2Stride.toNat + c))) ∨
  (semiplanar o.fmt = true ∧ o.p1Addr ≠ 0#64 ∧ ∃ r j, r < o.uvHeight ∧ j < 2 * o.uvWidth ∧
    a = o.p1Addr.toNat + r * o.p1Stride.toNat + j) := by
      unfold FrameRegs.copyReads
      rcases fmtClass_inv o.fmt with ⟨hc, _⟩ | ⟨hc, _⟩ | ⟨hc, _⟩ | ⟨hc, _⟩ | ⟨hc, _⟩ <;>
        simp only [hc, covers_append, covers_unlessNull, covers_planeSpans, semiplanar, hn, e2] <;> simp
      all_goals
        constructor
        · rintro (⟨h, r, hr, x, hx, e⟩ | ⟨h, r, hr, x, hx, e⟩) <;> refine ⟨r, hr, x, hx, ?_⟩ <;> simp [h, e]
        · rintro ⟨r, hr, x, hx, (⟨h, e⟩ | ⟨h, e⟩)⟩
          · exact .inl ⟨h, r, hr, x, hx, e⟩
          · exact .inr ⟨h, r, hr, x, hx, e⟩
    rw [hcr]
    clear hcr hi hj hn e2
    generalize (∃ r c, r < o.height.toNat ∧ c < o.width.toNat ∧ a = o.p0Addr.toNat + r * o.p0Stride.toNat + c) = A0
    generalize (∃ off ∈ o.probes, a = o.p1Addr.toNat + off) = A1
    generalize (∃ off ∈ o.probes, a = o.p2Addr.toNat + off) = A2
    generalize (∃ r c, r < o.uvHeight ∧ c < o.uvWidth ∧ ((o.p1Addr ≠ 0#64 ∧ a = o.p1Addr.toNat + r * o.p1Stride.toNat + c) ∨
     (o.p2Addr ≠ 0#64 ∧ a = o.p2Addr.toNat + r * o.p2Stride.toNat + c))) = A3
    generalize (∃ r c, r < o.uvHeight ∧ c < o.uvWidth ∧
    ((o.p1Addr ≠ 0#64 ∧ a = o.p1Addr.toNat + 2 * r * o.p1Stride.toNat + c) ∨
     (o.p2Addr ≠ 0#64 ∧ a = o.p2Addr.toNat + 2 * r * o.p2Stride.toNat + c))) = A4
    generalize (∃ r j, r < o.uvHeight ∧ j < 2 * o.uvWidth ∧
    a = o.p1Addr.toNat + r * o.p1Stride.toNat + j) = A5
    by_cases hu : 0 < o.uvSize
    · simp only [hu, true_and, or_assoc]
      cases semiplanar o.fmt <;> simp
    · simp only [hu, false_and, or_false]

/-- FP as a set is the union of the footprint's spans. -/
theorem Command.inFootprint_iff (c : Command) (a : Nat) : c.InFootprint a ↔ Covers c.footprint a := by
  simp [Command.InFootprint, Command.writesAt_iff, Command.readsAt_iff, Command.footprint, Covers]

/-- The ERR_ADDR check, over the footprint as a set (41_repack.md R124, 42_adpcm.md R170). -/
theorem Command.overflows_iff (c : Command) : c.overflows = true ↔ ∃ a, c.InFootprint a ∧ 2 ^ 64 - 1 < a := by
  simp only [Command.overflows, List.any_eq_true, Span.overflows_iff, Command.inFootprint_iff, Covers]
  constructor
  · rintro ⟨sp, h, a, h1, h2⟩; exact ⟨a, ⟨sp, h, h1⟩, h2⟩
  · rintro ⟨a, ⟨sp, h, h1⟩, h2⟩; exact ⟨sp, h, a, h1, h2⟩

/-- Admission, over the footprint as a set (20_memory.md R67). -/
theorem Command.admittedBy_iff (c : Command) (p : Platform) : c.admittedBy p = true ↔ ∀ a, c.InFootprint a → p.admits a = true := by
  simp only [Command.admittedBy, List.all_eq_true, Span.all_iff, Command.inFootprint_iff, Covers]
  constructor
  · rintro h a ⟨sp, h1, h2⟩; exact h sp h1 a h2
  · intro h sp h1 a h2; exact h a ⟨sp, h1, h2⟩

/-- The side-effect check, over the footprint as a set (20_memory.md R66). -/
theorem Command.touchesSideEffects_iff (c : Command) (p : Platform) : c.touchesSideEffects p = true ↔ ∃ a, c.InFootprint a ∧ p.sideEffectAt a = true := by
  simp only [Command.touchesSideEffects, List.any_eq_true, Bool.and_eq_true, Span.meets_iff, Command.inFootprint_iff, Covers, Platform.sideEffectAt]
  constructor
  · rintro ⟨sp, h, hn, q, hq, a, h1, h2⟩; exact ⟨a, ⟨sp, h, h1⟩, q, hq, h2⟩
  · rintro ⟨a, ⟨sp, h, h1⟩, q, hq, h2⟩
    refine ⟨sp, h, ?_, q, hq, a, h1, h2⟩
    rw [Span.contains_iff] at h1
    simp; omega

/-- The overlap check, over the two sets (20_memory.md R73). -/
theorem Command.overlaps_iff (c : Command) : c.overlaps = true ↔ ∃ a, c.WritesAt a ∧ c.ReadsAt a := by
  simp only [Command.overlaps, List.any_eq_true, Span.meets_iff, Command.writesAt_iff, Command.readsAt_iff, Covers]
  constructor
  · rintro ⟨sp, h, a, h1, h2⟩; exact ⟨a, h1, sp, h, h2⟩
  · rintro ⟨a, h1, sp, h, h2⟩; exact ⟨sp, h, a, h1, h2⟩

/-- The footprint bytes with read side effects, as a set (20_memory.md R66). -/
theorem Command.sideEffectSpans_iff (c : Command) (p : Platform) (a : Nat) :
    Covers (c.sideEffectSpans p) a ↔ c.InFootprint a ∧ p.sideEffectAt a = true := by
  simp only [Covers, Command.sideEffectSpans, List.mem_flatMap, List.mem_map, Command.inFootprint_iff,
    Platform.sideEffectAt, List.any_eq_true]
  constructor
  · rintro ⟨_, ⟨sp, h, q, hq, rfl⟩, ha⟩
    rw [Span.inter_contains] at ha
    exact ⟨⟨sp, h, ha.1⟩, q, hq, ha.2⟩
  · rintro ⟨⟨sp, h, h1⟩, q, hq, h2⟩
    exact ⟨_, ⟨sp, h, q, hq, rfl⟩, (Span.inter_contains _ _ _).mpr ⟨h1, h2⟩⟩

/-- Whether a byte lies in the footprint, as a set. -/
theorem Command.touches_iff (c : Command) (a : Nat) : c.touches a = true ↔ c.InFootprint a := by
  simp [Command.touches, Command.inFootprint_iff, Covers]

/-- The faults a command records, as the rules give them (20_memory.md R66, R73, 60_exceptions.md R202). -/
theorem Command.mem_faultsOn (c : Command) (p : Platform) :
    (Fault.overlap ∈ c.faultsOn p ↔ ∃ a, c.WritesAt a ∧ c.ReadsAt a) ∧
    (Fault.nonIdempotent ∈ c.faultsOn p ↔ ∃ a, c.InFootprint a ∧ p.sideEffectAt a = true) ∧
    Fault.hostRace ∉ c.faultsOn p := by
  rw [← Command.overlaps_iff, ← Command.touchesSideEffects_iff]
  unfold Command.faultsOn
  split <;> split <;> simp_all

/-- The bytes a command is to write are WR, unless it is to end with ERR_ADDR. -/
theorem Command.liveWrites_iff (c : Command) (a : Nat) :
    c.liveWrites.contains a = true ↔ c.overflows = false ∧ c.WritesAt a := by
  rw [Command.writesAt_iff]; unfold Command.liveWrites; split <;> simp_all [Span.contains]

/-- The bytes a host read draws, as a set (20_memory.md R69). -/
theorem outputByte_iff (a : Nat) (s : State) :
    outputByte a s = true ↔ ∃ c ∈ s.unsynced, c.overflows = false ∧ c.WritesAt a := by
  simp [outputByte, Command.liveWrites_iff]

/-- The bytes a command with an open window reads, as a set (20_memory.md R69). -/
theorem sourceByte_iff (a : Nat) (s : State) : sourceByte a s = true ↔ ∃ c ∈ s.unsynced, c.ReadsAt a := by
  simp [sourceByte, Command.readsAt_iff, Covers]

end Sys2Proof.Machine
end

