-- ==== Sys2Proof/Laws/PerInstr.lean ====
section
/-! SUPPORT. A statement for every instruction: its encoding has the fixed bits of its row of spec/opcode_table.json. -/

namespace Sys2Proof.Laws.MatchesTable

/-- The first byte of a HOSTBUS row has bits [7:5] as the row fixes them (30_encoding.md R91). -/
def hostBusRow (top : BitVec 3) : Encoded → Prop
  | .hostBus (h :: _) => h.extractLsb' 5 3 = top
  | _ => False

/-- The low byte of a CMD row is the row's OPCODE (30_encoding.md R80, R81). -/
def cmdRow (op : Byte) : Encoded → Prop
  | .cmd w => w.extractLsb' 0 8 = op
  | _ => False

/-- The low byte of a CMD+FORMAT row is OPCODE 0x01 and FMT is one of the row's values (30_encoding.md R82). -/
def formatRow (fmts : Byte → Prop) : Encoded → Prop
  | .cmdFormat w f => w.extractLsb' 0 8 = 0x01#8 ∧ fmts f
  | _ => False

/-- A well-formed instruction's encoding matches its row. -/
def Statement (i : Instr) : Prop :=
  i.wellFormed = true →
    match i with
    | .mmioRead _ => hostBusRow 0b000#3 (encode i)
    | .mmioWrite _ _ => hostBusRow 0b100#3 (encode i)
    | .repack => cmdRow 0x01#8 (encode i)
    | .repackP420 _ => formatRow (fun f => f &&& 0xFE#8 = 0x00#8) (encode i)
    | .repackP422 _ => formatRow (fun f => f &&& 0xFE#8 = 0x02#8) (encode i)
    | .repackNvU => formatRow (fun f => f = 0x04#8) (encode i)
    | .repackNvV => formatRow (fun f => f = 0x05#8) (encode i)
    | .repackOther _ => formatRow (fun f => 6 ≤ f.toNat) (encode i)
    | .adpcmDecode => cmdRow 0x02#8 (encode i)
    | .adpcmReset => cmdRow 0x03#8 (encode i)
    | .illegalOpcode op => cmdRow op (encode i) ∧ op ≠ 0x01#8 ∧ op ≠ 0x02#8 ∧ op ≠ 0x03#8

theorem mmioRead (slot : BitVec 5) : Statement (.mmioRead slot) := fun _ => by
  show (slot.setWidth 8).extractLsb' 5 3 = 0b000#3
  revert slot; decide

theorem mmioWrite (slot : BitVec 5) (value : Word) : Statement (.mmioWrite slot value) := fun _ => by
  exact (by decide : ∀ k : BitVec 5, (0x80#8 ||| k.setWidth 8).extractLsb' 5 3 = 0b100#3) slot

theorem repack : Statement .repack := fun _ => by
  show (0x01#64).extractLsb' 0 8 = 0x01#8
  decide

theorem repackP420 (fullRange : Bool) : Statement (.repackP420 fullRange) := fun _ => by
  cases fullRange <;> exact ⟨by decide +kernel, by decide⟩

theorem repackP422 (fullRange : Bool) : Statement (.repackP422 fullRange) := fun _ => by
  cases fullRange <;> exact ⟨by decide +kernel, by decide⟩

theorem repackNvU : Statement .repackNvU := fun _ => ⟨by decide +kernel, rfl⟩

theorem repackNvV : Statement .repackNvV := fun _ => ⟨by decide +kernel, rfl⟩

theorem repackOther (fmt : Byte) : Statement (.repackOther fmt) := fun h => ⟨by decide +kernel, of_decide_eq_true h⟩

theorem adpcmDecode : Statement .adpcmDecode := fun _ => by
  show (0x02#64).extractLsb' 0 8 = 0x02#8
  decide

theorem adpcmReset : Statement .adpcmReset := fun _ => by
  show (0x03#64).extractLsb' 0 8 = 0x03#8
  decide

theorem illegalOpcode (op : Byte) : Statement (.illegalOpcode op) := fun h => by
  have h : op.toNat = 0 ∨ 4 ≤ op.toNat := of_decide_eq_true h
  refine ⟨?_, ?_, ?_, ?_⟩
  · show (op.setWidth 64).extractLsb' 0 8 = op
    apply BitVec.eq_of_toNat_eq
    simp
    omega
  all_goals (rintro rfl; revert h; decide)

end Sys2Proof.Laws.MatchesTable
end

