-- ==== Sys2Proof/Laws/Step.lean ====
section
/-! SUPPORT. What one step can do, said once. -/

namespace Sys2Proof.Machine

/-- A host transaction is a read or a write of a slot (30_encoding.md R91). -/
theorem decodeHostBus_instr {b tail : List Byte} {i : Instr} (h : decodeHostBus b = .ok i tail) :
    (∃ k, i = .mmioRead k) ∨ ∃ k v, i = .mmioWrite k v := by
  unfold decodeHostBus at h
  split at h
  · cases h
  · split at h
    · cases h
    · split at h
      · split at h
        · cases h; exact .inr ⟨_, _, rfl⟩
        · cases h
      · cases h; exact .inl ⟨_, rfl⟩

/-- A bus access that is a transaction is a read or a write of a slot (40_host_interface.md R106). -/
theorem accessMeaning_instr {p : Platform} {a : BusAccess} {i : Instr} (h : accessMeaning p a = .instr i) :
    (∃ k, i = .mmioRead k) ∨ ∃ k v, i = .mmioWrite k v := by
  simp only [accessMeaning] at h
  split at h
  · cases h
  · split at h
    · cases h
    · split at h
      · cases h
      · split at h
        · cases h; exact .inr ⟨_, _, rfl⟩
        · cases h; exact .inl ⟨_, rfl⟩

/-- What a racing host write leaves, as one record (20_memory.md R69, notes/assumptions/14.md). -/
theorem raceWrite_eq (a : Nat) (b : Byte) (s : State) :
    raceWrite a b s = { s with
      mem := Memory.write s.mem a
        (if outputByte a s || !plainMemory s.platform a then Config.freeByte s.draws else b)
      draws := s.draws + if outputByte a s || !plainMemory s.platform a then 1 else 0
      faults := .hostRace :: s.faults
      raced := s.raced || inFlightTouches a s } := by
  unfold raceWrite
  split <;> rfl

/-- The engine's turn: an idle engine leaves the state, a busy one runs the command in flight. -/
theorem engineTurn_cases {s t : State} (h : engineTurn s = .next t) :
    (s.engine = .idle ∧ t = s) ∨ ∃ c, s.engine = .busy c ∧ exec (commandInstr c) s = .next t := by
  unfold engineTurn at h
  split at h
  · rename_i hh; exact .inl ⟨hh, by simpa using h.symm⟩
  · rename_i c hh; exact .inr ⟨c, hh, h⟩

/-- Everything a step that answers a next state can do: a host read or write of a register, a reset, the engine's turn,
idle or with a command in flight, or a host access to system memory. -/
theorem step_cases {s t : State} (h : step s = .next t) :
    (∃ ag k, s.hostInstr = some (.mmioRead k) ∧ t = hostRead (slotReg k) { s with agenda := ag }) ∨
    (∃ ag k v, s.hostInstr = some (.mmioWrite k v) ∧ t = hostWrite (slotReg k) v { s with agenda := ag }) ∨
    (∃ rest, s.agenda = .reset :: rest ∧ t = assertReset { s with agenda := rest }) ∨
    (∃ rest, s.engineMoves ∧ s.engine = .idle ∧ t = { s with agenda := rest }) ∨
    (∃ rest c, s.engineMoves ∧ s.engine = .busy c ∧ exec (commandInstr c) { s with agenda := rest } = .next t) ∨
    (∃ rest a, t = drawByte { s with agenda := rest } ∨
      t = returnWord ((Memory.read s.mem a).setWidth 64) { s with agenda := rest }) ∨
    (∃ rest, ∃ (a : Word) (b : Byte), t = storeByte a.toNat b { s with agenda := rest } ∨
      t = raceWrite a.toNat b { s with agenda := rest }) := by
  unfold step at h
  split at h
  · rename_i ha
    have e : ({ s with agenda := [] } : State) = s := by rw [← ha]
    rcases engineTurn_cases h with ⟨h1, h2⟩ | ⟨c, h1, h2⟩
    · exact .inr (.inr (.inr (.inl ⟨[], .inl ha, h1, by rw [e]; exact h2⟩)))
    · exact .inr (.inr (.inr (.inr (.inl ⟨[], c, .inl ha, h1, by rw [e]; exact h2⟩))))
  · rename_i e rest ha
    cases e with
    | transactions b =>
      simp only [eventTurn, transactionTurn] at h
      split at h
      · rename_i i tail hd
        have hi : s.hostInstr = some i := by simp [State.hostInstr, ha, hd]
        rcases decodeHostBus_instr hd with ⟨k, rfl⟩ | ⟨k, v, rfl⟩
        · exact .inl ⟨_, k, hi, by simpa [exec, execMmioRead] using h.symm⟩
        · exact .inr (.inl ⟨_, k, v, hi, by simpa [exec, execMmioWrite] using h.symm⟩)
      · cases h
    | access a =>
      simp only [eventTurn, accessTurn] at h
      split at h
      · rename_i i hd
        have hi : s.hostInstr = some i := by simp only [State.hostInstr, ha]; rw [hd]
        rcases accessMeaning_instr hd with ⟨k, rfl⟩ | ⟨k, v, rfl⟩
        · exact .inl ⟨_, k, hi, by simpa [exec, execMmioRead] using h.symm⟩
        · exact .inr (.inl ⟨_, k, v, hi, by simpa [exec, execMmioWrite] using h.symm⟩)
      · cases h
    | memRead a =>
      simp only [eventTurn, hostMemRead] at h
      refine .inr (.inr (.inr (.inr (.inr (.inl ⟨rest, a.toNat, ?_⟩)))))
      split at h
      · exact .inl (by simpa using h.symm)
      · split at h
        · cases h
        · exact .inr (by simpa using h.symm)
    | memWrite a b =>
      simp only [eventTurn, hostMemWrite] at h
      refine .inr (.inr (.inr (.inr (.inr (.inr ⟨rest, a, b, ?_⟩)))))
      split at h
      · exact .inr (by simpa using h.symm)
      · split at h
        · cases h
        · exact .inl (by simpa using h.symm)
    | reset => exact .inr (.inr (.inl ⟨rest, ha, by simpa [eventTurn] using h.symm⟩))
    | engine =>
      have hm : s.engineMoves := .inr (by rw [ha]; rfl)
      rcases engineTurn_cases h with ⟨h1, h2⟩ | ⟨c, h1, h2⟩
      · exact .inr (.inr (.inr (.inl ⟨rest, hm, h1, h2⟩)))
      · exact .inr (.inr (.inr (.inr (.inl ⟨rest, c, hm, h1, h2⟩))))

end Sys2Proof.Machine
end

