-- ==== Sys2Proof/Tests/Slice0.lean ====
section
/-! SUPPORT. Tests of the model against the vectors of 95_test_vectors.md and the encodings of 30_encoding.md, each on one
step of a small state, and for every obligation with hypotheses a named witness that meets them. -/

namespace Sys2Proof.Tests

open Sys2Proof.Machine

set_option Elab.async false

/-! ### Small states -/

/-- The vectors' platform: every address admitted, DIAG_PERIOD 4; the window is put at 0x10000. -/
def platform : Platform := ⟨0x10000#64, 3, [⟨0, 2 ^ 64⟩], []⟩

/-- The state after reset on that platform, with memory given as rows of bytes. -/
def idle (rows : List (Nat × List Byte)) : State :=
  { State.reset with
    platform := platform
    mem := rows.foldl (fun m r => Memory.writeRow m r.1 r.2.length fun k => r.2.getD k 0#8) [] }

/-- The same with a command in flight, its operand registers as the host wrote them. -/
def busy (c : Command) (s : State) : State :=
  let t := { s with engine := .busy c, unsynced := [c] }
  match c with
  | .repack o => { t with frame := o }
  | .adpcmDecode o => { t with audio := o }
  | .adpcmReset => t

/-- What a next state holds, as the test asks for it. -/
def nextOf {α : Type} (f : State → α) (o : Host.Outcome State Fault Refusal) : Option α :=
  match o with
  | .next t => some (f t)
  | _ => none

/-- `n` bytes of memory. -/
def bytesAt (a n : Nat) (s : State) : List Byte := (List.range n).map fun k => Memory.read s.mem (a + k)

/-- STATUS and one more register of the machine, as the host reads them. -/
def statusAnd (r : Reg) (s : State) : Word × Word := (regWord .status s, regWord r s)

/-- V-REP-1: P420 4x2 with padded strides. -/
def frame1 : FrameRegs := ⟨4, 2, 0, 0x1000, 6, 0x2000, 4, 0x3000, 4, 0x8000⟩

def memory1 : List (Nat × List Byte) :=
  [(0x1000, [0x10, 0x11, 0x12, 0x13, 0xEE, 0xEE, 0x20, 0x21, 0x22, 0x23, 0xEE, 0xEE]),
   (0x2000, [0x50, 0x51, 0xEE, 0xEE]), (0x3000, [0x60, 0x61, 0xEE, 0xEE])]

/-- V-REP-3: P422 4x4. -/
def frame3 : FrameRegs := ⟨4, 4, 2, 0x1000, 4, 0x2000, 2, 0x3000, 2, 0x8000⟩

def memory3 : List (Nat × List Byte) :=
  [(0x1000, List.replicate 16 0x11), (0x2000, [0x31, 0x32, 0x33, 0x34, 0x35, 0x36, 0x37, 0x38]),
   (0x3000, [0x41, 0x42, 0x43, 0x44, 0x45, 0x46, 0x47, 0x48])]

/-- V-REP-6: as V-REP-3 with U suspect. -/
def memory6 : List (Nat × List Byte) :=
  [(0x1000, List.replicate 16 0x11), (0x2000, [0x00, 0x00, 0x00, 0x00, 0x35, 0x36, 0x37, 0x38]),
   (0x3000, [0x41, 0x42, 0x43, 0x44, 0x45, 0x46, 0x47, 0x48])]

/-- V-REP-4 and V-REP-5: one semiplanar 4x4 frame. -/
def frame4 (fmt : Byte) : FrameRegs := ⟨4, 4, fmt, 0x1000, 4, 0x2000, 8, 0, 0, 0x8000⟩

def memory4 : List (Nat × List Byte) :=
  [(0x1000, [0x00, 0x01, 0x02, 0x03, 0x04, 0x05, 0x06, 0x07, 0x08, 0x09, 0x0A, 0x0B, 0x0C, 0x0D, 0x0E, 0x0F]),
   (0x2000, [0xA0, 0xB0, 0xA1, 0xB1, 0, 0, 0, 0, 0xA2, 0xB2, 0xA3, 0xB3, 0, 0, 0, 0])]

/-- PROG3, the first block, after ADPCM_RESET. -/
def audio1 : AudioRegs := ⟨0x4000, 4, 0x5000⟩

def memoryAudio : List (Nat × List Byte) := [(0x4000, [0xF7, 0x80, 0x3C, 0x00, 0x12, 0x9A])]

/-! ### Well-formedness and decoding -/

/-- REPACK.OTHER starts at FMT 6, and ILLEGAL_OPCODE is not a legal opcode: the terms outside are refused. -/
theorem test_wellFormed_refuses :
    (Instr.repackOther 5#8).wellFormed = false ∧ (Instr.illegalOpcode 1#8).wellFormed = false ∧
    (Instr.illegalOpcode 2#8).wellFormed = false ∧ (Instr.illegalOpcode 3#8).wellFormed = false ∧
    (Instr.repackOther 6#8).wellFormed = true ∧ (Instr.illegalOpcode 0#8).wellFormed = true ∧
    (Instr.illegalOpcode 4#8).wellFormed = true := by decide

/-- 30_encoding.md R91, V-MMIO-3 and PROG1: header 000kkkkk reads slot k, 100kkkkk writes it, the data bytes least
significant first. -/
theorem test_decode_hostBus :
    decode (.hostBus [0b00001010]) = .ok (.mmioRead 10) [] ∧
    decode (.hostBus [0b00011111]) = .ok (.mmioRead 31) [] ∧
    decode (.hostBus [0x8A, 0x40, 0, 0, 0, 0xFF, 0xFF, 0xFF, 0xFF]) = .ok (.mmioWrite 10 0xFFFFFFFF00000040) [] ∧
    decode (.hostBus [0x8D, 0x00, 0x80, 0, 0, 0, 0, 0, 0]) = .ok (.mmioWrite 13 0x8000) [] := by decide

/-- 30_encoding.md R91: header bits [6:5] other than 0 are no transaction; a write needs its eight bytes. -/
theorem test_decode_hostBus_refuses :
    decode (.hostBus [0b00100000]) = .refused (.notATransaction 0x20) ∧
    decode (.hostBus [0b11000000]) = .refused (.notATransaction 0xC0) ∧
    decode (.hostBus [0x83, 1, 0, 0, 0, 0, 0, 0]) = .refused (.truncatedWrite 0x83) ∧
    decode (.hostBus [0x02, 0x02]) = .refused .trailingBytes ∧ decode (.hostBus []) = .refused .noHeader := by decide

/-- 30_encoding.md R80, R81: OPCODE in bits [7:0], the other bits ignored. -/
theorem test_decode_cmd :
    decode (.cmd 0x01) = .ok .repack [] ∧ decode (.cmd 0x02) = .ok .adpcmDecode [] ∧
    decode (.cmd 0xABCDEF0000000103) = .ok .adpcmReset [] ∧ decode (.cmd 0x107) = .ok (.illegalOpcode 0x07) [] ∧
    decode (.cmd 0) = .ok (.illegalOpcode 0) [] := by decide

/-- 30_encoding.md R82: FMT 0 and 1, 2 and 3, 4, 5, and 6 to 255. -/
theorem test_decode_cmdFormat :
    decode (.cmdFormat 0x01 0) = .ok (.repackP420 false) [] ∧ decode (.cmdFormat 0x01 1) = .ok (.repackP420 true) [] ∧
    decode (.cmdFormat 0x01 2) = .ok (.repackP422 false) [] ∧ decode (.cmdFormat 0x01 3) = .ok (.repackP422 true) [] ∧
    decode (.cmdFormat 0x01 4) = .ok .repackNvU [] ∧ decode (.cmdFormat 0x01 5) = .ok .repackNvV [] ∧
    decode (.cmdFormat 0x01 6) = .ok (.repackOther 6) [] ∧ decode (.cmdFormat 0x01 0xFF) = .ok (.repackOther 0xFF) [] := by
  decide

/-- The same words as numbers of the opcode table: CMD words by their low byte, CMD+FORMAT with FMT in bits [71:64],
HOSTBUS headers. -/
theorem test_decodeTableWord :
    decodeTableWord 8 0x01 = some .repack ∧ decodeTableWord 64 0x02 = some .adpcmDecode ∧
    decodeTableWord 72 (0x01 + 5 * 2 ^ 64) = some .repackNvV ∧ decodeTableWord 72 (0x01 + 7 * 2 ^ 64) = some (.repackOther 7) ∧
    decodeTableWord 8 0x04 = some (.mmioRead 4) ∧ decodeTableWord 8 0x84 = some (.mmioWrite 4 0) ∧
    decodeTableWord 64 0x04 = some (.illegalOpcode 4) := by decide +kernel

/-- `step` runs the word that withFetchWord places as the first instruction after reset: READ of slot 0 answers VERSION,
and ADPCM_RESET completes. -/
theorem test_withFetchWord :
    nextOf (·.readData) (step (State.reset.withFetchWord 8 0x00)) = some 1#64 ∧
    nextOf (regWord .status) (step (State.reset.withFetchWord 64 0x03)) = some 0x02#64 := by decide +kernel

/-! ### Host register access -/

/-- V-MMIO-1, V-MMIO-2, V-MMIO-10. -/
theorem test_mmioRead_after_reset :
    nextOf (·.readData) (exec (.mmioRead 0) (idle [])) = some 1#64 ∧
    nextOf (·.readData) (exec (.mmioRead 2) (idle [])) = some 0#64 ∧
    nextOf (·.readData) (exec (.mmioRead 21) (idle [])) = some 0#64 ∧
    nextOf (·.readData) (exec (.mmioRead 3) (idle [])) = some 0#64 := by decide +kernel

/-- V-MMIO-15, V-MMIO-16: STATUS is 0x15 while the command is in flight. -/
theorem test_mmioRead_status_while_busy :
    nextOf (·.readData) (exec (.mmioRead 2)
      (busy .adpcmReset { idle [] with status := ⟨false, true, false, true, false, false⟩ })) = some 0x15#64 := by
  decide +kernel

/-- V-MMIO-3, V-MMIO-4, V-MMIO-5, V-MMIO-6. -/
theorem test_mmioWrite_fields :
    nextOf (regWord .p1Stride) (exec (.mmioWrite 10 0xFFFFFFFF00000040) (idle [])) = some 0x40#64 ∧
    nextOf (regWord .frameW) (exec (.mmioWrite 4 0x12345) (idle [])) = some 0x2345#64 ∧
    nextOf (regWord .chL) (exec (.mmioWrite 21 0x007F8000) (idle [])) = some 0x588000#64 ∧
    nextOf (regWord .chR) (exec (.mmioWrite 22 0xFFFFFFFFFF2A1234) (idle [])) = some 0x2A1234#64 := by decide +kernel

/-- V-MMIO-7, V-MMIO-8, V-MMIO-16, V-MMIO-17, V-MMIO-20. -/
theorem test_mmioWrite_status_and_busy :
    let s16 := { idle [] with status := ⟨true, true, false, true, false, false⟩ }
    nextOf (regWord .status) (exec (.mmioWrite 2 0x02) s16) = some 0x14#64 ∧
    nextOf (regWord .status) (exec (.mmioWrite 2 0x01) s16) = some 0x16#64 ∧
    nextOf (regWord .status) (exec (.mmioWrite 3 0x03) s16) = some 0x15#64 ∧
    nextOf (statusAnd .frameW) (exec (.mmioWrite 4 8) (busy .adpcmReset (idle []))) = some (0x09#64, 0#64) ∧
    nextOf (regWord .status) (exec (.mmioWrite 2 0x08)
      (busy .adpcmReset { idle [] with status := ⟨false, false, true, false, false, false⟩ })) = some 0x01#64 := by
  decide +kernel

/-- V-MMIO-13, V-MMIO-14, V-MMIO-18, V-IRQ-6. -/
theorem test_illegalOpcode :
    nextOf (regWord .status) (exec (.illegalOpcode 0) (idle [])) = some 0x06#64 ∧
    nextOf (regWord .status) (exec (.mmioWrite 3 0x107) (idle [])) = some 0x06#64 ∧
    nextOf (regWord .status) (exec (.illegalOpcode 7) (busy .adpcmReset (idle []))) = some 0x09#64 ∧
    nextOf State.irq (exec (.mmioWrite 3 0x09) { idle [] with irqEn := true }) = some true := by decide +kernel

/-- V-MMIO-12 and 40_host_interface.md R106: a 32-bit access at offset 0x10, accesses below and above the window, and an access
at offset 4 are refused by name and offset. -/
theorem test_access_refused :
    step { idle [] with agenda := [.access ⟨false, 0x10010, 4, 0⟩] } = .refused (.accessWidth 0x10 4) ∧
    step { idle [] with agenda := [.access ⟨false, 0xFFF8, 8, 0⟩] } = .refused (.accessOutsideWindow (-8)) ∧
    step { idle [] with agenda := [.access ⟨false, 0x10100, 8, 0⟩] } = .refused (.accessOutsideWindow 0x100) ∧
    step { idle [] with agenda := [.access ⟨false, 0x10004, 8, 0⟩] } = .refused (.accessMisaligned 4) :=
  ⟨rfl, rfl, rfl, rfl⟩

/-! ### REPACK -/

/-- V-REP-1, PROG1. -/
theorem test_repack_p420 :
    nextOf (bytesAt 0x8000 12) (exec .repack (busy (.repack frame1) (idle memory1))) =
      some [0x10, 0x11, 0x12, 0x13, 0x20, 0x21, 0x22, 0x23, 0x50, 0x51, 0x60, 0x61] ∧
    nextOf (statusAnd .repackResult) (exec .repack (busy (.repack frame1) (idle memory1))) = some (0x42#64, 0#64) ∧
    nextOf (fun t => (regWord .dstLen t, regWord .recDim t)) (exec .repack (busy (.repack frame1) (idle memory1))) =
      some (12#64, 0x20004#64) := by decide +kernel

/-- V-ADDR-2 and V-ADDR-4: the last byte of memory is written; a copy that a fill would suppress still overflows. -/
theorem test_repack_at_the_top :
    nextOf (statusAnd .repackResult)
      (exec .repack (busy (.repack ⟨4, 2, 0, 0, 0, 0, 0, 0, 0, 0xFFFFFFFFFFFFFFF4⟩) (idle []))) = some (0x42#64, 0x33#64) ∧
    nextOf (bytesAt 0xFFFFFFFFFFFFFFFC 4)
      (exec .repack (busy (.repack ⟨4, 2, 0, 0, 0, 0, 0, 0, 0, 0xFFFFFFFFFFFFFFF4⟩) (idle []))) =
      some [0x80, 0x80, 0x80, 0x80] ∧
    nextOf (statusAnd .dstLen)
      (exec .repack (busy (.repack ⟨4, 4, 0, 0x1000, 4, 0xFFFFFFFFFFFFFF00, 0x100, 0, 0, 0x8000⟩) (idle []))) =
      some (0x12#64, 0#64) := by decide +kernel

/-- V-REP-2: the full-range tag, with other strides. -/
theorem test_repackP420_restrided :
    nextOf (bytesAt 0x8000 12) (exec (.repackP420 true)
      (busy (.repack ⟨4, 2, 1, 0x1000, 4, 0x2000, 2, 0x3000, 2, 0x8000⟩) (idle
        [(0x1000, [0x10, 0x11, 0x12, 0x13, 0x20, 0x21, 0x22, 0x23]), (0x2000, [0x50, 0x51]), (0x3000, [0x60, 0x61])]))) =
      some [0x10, 0x11, 0x12, 0x13, 0x20, 0x21, 0x22, 0x23, 0x50, 0x51, 0x60, 0x61] := by decide +kernel

/-- V-REP-15: the probes fall into the padding. -/
theorem test_repackP420_probe_reads_padding :
    let o : FrameRegs := ⟨4, 4, 0, 0x1000, 4, 0x2000, 4, 0x3000, 4, 0x8000⟩
    let s := busy (.repack o) (idle
      [(0x2000, [0, 0, 0, 0, 0x57, 0x58, 0, 0]), (0x3000, [0x61, 0x62, 0, 0, 0x63, 0x64, 0, 0])])
    nextOf (bytesAt 0x8010 8) (exec (.repackP420 false) s) = some (List.replicate 8 0x80) ∧
    nextOf (regWord .repackResult) (exec (.repackP420 false) s) = some 0x14#64 := by decide +kernel

/-- V-REP-3. -/
theorem test_repackP422_every_second_row :
    nextOf (bytesAt 0x8010 8) (exec (.repackP422 false) (busy (.repack frame3) (idle memory3))) =
      some [0x31, 0x32, 0x35, 0x36, 0x41, 0x42, 0x45, 0x46] := by decide +kernel

/-- V-REP-6: U suspect. -/
theorem test_repackP422_suspect :
    nextOf (bytesAt 0x8010 8) (exec (.repackP422 false) (busy (.repack frame3) (idle memory6))) =
      some (List.replicate 8 0x80) ∧
    nextOf (regWord .repackResult) (exec (.repackP422 false) (busy (.repack frame3) (idle memory6))) = some 0x14#64 := by
  decide +kernel

/-- V-REP-5. -/
theorem test_repackNvU :
    nextOf (bytesAt 0x8010 8) (exec .repackNvU (busy (.repack (frame4 4)) (idle memory4))) =
      some [0xA0, 0xA1, 0xA2, 0xA3, 0xB0, 0xB1, 0xB2, 0xB3] ∧
    nextOf (regWord .repackResult) (exec .repackNvU (busy (.repack (frame4 4)) (idle memory4))) = some 0#64 := by
  decide +kernel

/-- V-REP-4. -/
theorem test_repackNvV :
    nextOf (bytesAt 0x8010 8) (exec .repackNvV (busy (.repack (frame4 5)) (idle memory4))) =
      some [0xB0, 0xB1, 0xB2, 0xB3, 0xA0, 0xA1, 0xA2, 0xA3] := by decide +kernel

/-- V-REP-8 and V-REP-9: the first OTHER call is noticed, the second is not. -/
theorem test_repackOther_notice :
    let s := busy (.repack { frame3 with fmt := 6 }) (idle memory3)
    nextOf (statusAnd .unsupCount) (exec (.repackOther 6) s) = some (0x62#64, 1#64) ∧
    nextOf (statusAnd .unsupCount) (exec (.repackOther 6) { s with unsupCount := 1, recW := 4, recH := 4 }) =
      some (0x02#64, 2#64) := by decide +kernel

/-- V-REP-17: OTHER with a suspect U. -/
theorem test_repackOther_suspect :
    let s := busy (.repack { frame3 with fmt := 6 }) (idle memory6)
    nextOf (bytesAt 0x800F 9) (exec (.repackOther 6) s) = some (0x11 :: List.replicate 8 0x80) ∧
    nextOf (regWord .repackResult) (exec (.repackOther 6) s) = some 0x94#64 := by decide +kernel

/-! ### ADPCM -/

/-- PROG3, the first block: 32 output bytes and both channels. -/
theorem test_adpcmDecode_prog3 :
    nextOf (bytesAt 0x5000 32) (exec .adpcmDecode (busy (.adpcmDecode audio1) (idle memoryAudio))) =
      some [0x00, 0x00, 0xB0, 0xB9, 0x00, 0x00, 0xB0, 0x39, 0x00, 0x00, 0xD0, 0xB9, 0x00, 0x00, 0xD0, 0x39,
        0x00, 0x00, 0x80, 0xB8, 0x00, 0x00, 0x80, 0xB8, 0x00, 0x00, 0x00, 0xB8, 0x00, 0x00, 0x00, 0x00] ∧
    nextOf (fun t => (regWord .chL t, regWord .chR t)) (exec .adpcmDecode (busy (.adpcmDecode audio1) (idle memoryAudio))) =
      some (0x5FFFF#64, 0x80000#64) := by decide +kernel

/-- V-ADPCM-2, V-ADPCM-3 and V-ADPCM-4: the step function at its corners, and the sample patterns. -/
theorem test_adpcm_step_and_f32 :
    adpcmStep 1000 40 7#4 = (1631, 48) ∧ adpcmStep 1000 40 0xB#4 = (706, 39) ∧
    adpcmStep 32767 88 7#4 = (32767, 88) ∧ adpcmStep (-32768) 88 0xF#4 = (-32768, 88) ∧
    adpcmStep 0 8 8#4 = (-2, 7) ∧ adpcmStep 0 0 3#4 = (4, 0) ∧ adpcmStep 100 88 0xC#4 = (-32768, 88) ∧
    f32 1 = 0x38000000#32 ∧ f32 (-1) = 0xB8000000#32 ∧ f32 3 = 0x38C00000#32 ∧ f32 (-41) = 0xBAA40000#32 ∧
    f32 32767 = 0x3F7FFE00#32 ∧ f32 (-32768) = 0xBF800000#32 ∧ f32 0 = 0#32 := by decide +kernel

/-- V-RST-1. -/
theorem test_adpcmReset :
    let s := busy .adpcmReset { idle [] with chL := ⟨0x8000, 88⟩, chR := ⟨0xFFF5, 8⟩, unsupCount := 3 }
    nextOf (statusAnd .unsupCount) (exec .adpcmReset s) = some (0x02#64, 3#64) ∧
    nextOf (fun t => (regWord .chL t, regWord .chR t)) (exec .adpcmReset s) = some (0#64, 0#64) := by decide +kernel

/-! ### Witnesses: states and operands that meet the hypotheses of the obligations -/

/-- V-REP-1 in flight. -/
def running1 : State := busy (.repack frame1) (idle memory1)

/-- PROG3's first block in flight. -/
def decoding1 : State := busy (.adpcmDecode audio1) (idle memoryAudio)

theorem running1_ready : (Command.repack frame1).Ready running1 :=
  ⟨by decide +kernel, by decide +kernel, by decide +kernel, by decide +kernel, rfl⟩

theorem decoding1_ready : (Command.adpcmDecode audio1).Ready decoding1 :=
  ⟨by decide +kernel, by decide +kernel, by decide +kernel, by decide +kernel, rfl⟩

theorem running1_inv : running1.Inv where
  memWf := by decide +kernel
  memInSpace := by decide +kernel
  idxLeft := by decide +kernel
  idxRight := by decide +kernel
  snapFrame := fun o h => by cases h; rfl
  snapAudio := fun o h => by cases h
  notDone := fun _ _ => rfl
  pending := fun c h => by cases h; exact List.mem_singleton.mpr rfl
  raceFault := nofun
  raceTarget := nofun

/-- Every command can be in flight. -/
theorem test_witness_busy (c : Command) (s : State) : (busy c s).engine = .busy c := by cases c <;> rfl

/-- Reset, with nothing and with a command in flight that writes 12 bytes and not the byte below them. -/
theorem test_witness_reset :
    { idle [] with agenda := [.reset] }.agenda = .reset :: [] ∧
    { idle [] with agenda := [.reset] }.engine = .idle ∧
    { running1 with agenda := [.reset] }.engine = .busy (.repack frame1) ∧
    (Command.repack frame1).writeSet = ⟨0x8000, 12⟩ ∧
    (Command.repack frame1).writeSet.contains 0x7FFF = false ∧
    (Command.repack frame1).writeSet.contains 0x800B = true := by decide +kernel

/-- ResetDrawsTheAbortedWrites for a command that is to end with ERR_ADDR: of V-ADPCM-10's write set the 7 bytes up to the
top of memory are drawn. -/
theorem test_reset_draws_below_the_top :
    let c := Command.adpcmDecode ⟨0x4000, 1, 0xFFFFFFFFFFFFFFF9⟩
    c.overflows = true ∧ abortedWrites (busy c (idle [])) = ⟨0xFFFFFFFFFFFFFFF9, 7⟩ ∧
    nextOf (·.draws) (step { busy c (idle []) with agenda := [.reset] }) = some 7 := by decide +kernel

/-- EveryStepKeepsTheInvariant, NoStepChangesThePlatform: a state of the invariant that steps. -/
theorem test_witness_step : running1.Inv ∧ ∃ t, step running1 = .next t :=
  ⟨running1_inv, _, by
    have h : running1.engine = .busy (.repack frame1) := rfl
    have e : step running1 = exec (commandInstr (.repack frame1)) running1 := rfl
    rw [e, exec_commandInstr h, runCommand_ready running1_ready]⟩

/-- DecodeOfEncode at the ends of the operand ranges. -/
theorem test_witness_wellFormed :
    (Instr.repackOther 6#8).wellFormed = true ∧ (Instr.repackOther 255#8).wellFormed = true ∧
    (Instr.illegalOpcode 255#8).wellFormed = true ∧ (Instr.mmioWrite 31#5 (-1)).wellFormed = true ∧
    (Instr.repackP420 true).wellFormed = true ∧ (Instr.adpcmReset).wellFormed = true := by decide

/-- EncodeOfDecodedTransaction: a read and a write. -/
theorem test_witness_transaction :
    decodeHostBus [0x1F] = .ok (.mmioRead 31) [] ∧
    decodeHostBus [0x9F, 1, 2, 3, 4, 5, 6, 7, 8] = .ok (.mmioWrite 31 0x0807060504030201) [] := by decide

/-- CommandWordDecodesByOpcodeAlone: two words with the same low byte. -/
theorem test_witness_lowByte :
    ∀ i, i < 8 → (0xABCDEF0000000103#64).getLsbD i = (0x03#64).getLsbD i := by decide

/-- StepRunsTheDecodedTransaction: with bytes left after the transaction, and with none. -/
theorem test_witness_transactions :
    { idle [] with agenda := [.transactions [0x02, 0x0E]] }.agenda = .transactions [0x02, 0x0E] :: [] ∧
    decodeHostBus [0x02, 0x0E] = .ok (.mmioRead 2) [0x0E] ∧ decodeHostBus [0x0E] = .ok (.mmioRead 14) [] := by
  decide +kernel

/-- StepRunsTheCommandInFlight: both agendas, each engine phase. -/
theorem test_witness_engine_turn :
    { running1 with agenda := [.engine, .reset] }.agenda = .engine :: [.reset] ∧ running1.agenda = [] ∧
    (idle []).engine = .idle ∧ running1.engine = .busy (.repack frame1) ∧
    decoding1.engine = .busy (.adpcmDecode audio1) ∧ (busy .adpcmReset (idle [])).engine = .busy .adpcmReset := by
  decide +kernel

/-- CommandNotInFlightIsRefused: an idle engine; a format and an opcode at the ends of the ranges. -/
theorem test_witness_not_in_flight :
    (∀ o, (idle []).engine ≠ .busy (.repack o)) ∧ (∀ o, (idle []).engine ≠ .busy (.adpcmDecode o)) ∧
    (idle []).engine ≠ .busy .adpcmReset ∧
    (∀ o, running1.engine = .busy (.repack o) → o.fmt ≠ 2#8) ∧
    (5#8).toNat ≤ 5 ∧ 1 ≤ (1#8).toNat ∧ (3#8).toNat ≤ 3 := by
  refine ⟨nofun, nofun, nofun, fun o h => ?_, by decide, by decide, by decide⟩
  cases h; decide

/-- OnlyAlignedWordAccessesReachTheWindow: the last slot; and an address above the window, which is no slot. -/
theorem test_witness_access :
    { idle [] with agenda := [.access ⟨true, 0x100F8, 8, 5⟩] }.agenda = .access ⟨true, 0x100F8#64, 8, 5#64⟩ :: [] ∧
    (idle []).platform = platform ∧ (0x100F8#64).toNat = platform.regBase.toNat + 8 * (31#5).toNat ∧
    ¬ ∃ k : BitVec 5, (0x10100#64).toNat = platform.regBase.toNat + 8 * k.toNat := by decide +kernel

/-- The register statements: an idle engine and a busy one, and slots at the ends of their ranges. -/
theorem test_witness_registers :
    (idle []).busy = false ∧ running1.busy = true ∧
    (2#5 ≠ 21#5 ∧ 2#5 ≠ 22#5) ∧ 23 ≤ (23#5).toNat ∧ 23 ≤ (31#5).toNat ∧ 3#5 ≠ 1#5 ∧ 3#5 ≠ 2#5 ∧ 4#5 ≠ 3#5 := by
  decide +kernel

/-- CommandWriteAcceptsOrRejects, BusyCheckComesBeforeTheOpcode, InterruptFollowsDone (whose completions are
test_witness_overflow and test_witness_ready). -/
theorem test_witness_opcodes :
    (0xABCDEF0000000103#64).toNat % 256 = 3 ∧ (0x01#64).toNat % 256 = 1 ∧ (0x02#64).toNat % 256 = 2 ∧
    (0x00#64).toNat % 256 = 0 ∧ 4 ≤ (0x04#64).toNat % 256 ∧ (0#8).toNat = 0 ∧ 4 ≤ (4#8).toNat ∧ 4 ≤ (255#8).toNat ∧
    (0x02#64).getLsbD 1 = true ∧ (0xFE#64).getLsbD 0 = false := by decide

/-- OnlyAStatusWriteClearsAStickyBit: an instruction that is no write of STATUS, in a state with a sticky bit. -/
theorem test_witness_sticky :
    nextOf (·.status) (exec (.illegalOpcode 0) { idle [] with status := ⟨false, false, false, true, false, false⟩ }) =
      some ⟨true, true, false, true, false, false⟩ ∧ ∀ v, Instr.illegalOpcode 0 ≠ .mmioWrite 2#5 v :=
  ⟨by decide +kernel, nofun⟩

/-- FootprintOverflowEndsWithErrAddr: V-ADPCM-10, one byte past the last pair that fits. -/
theorem test_witness_overflow :
    ∃ a, (Command.adpcmDecode ⟨0x4000, 1, 0xFFFFFFFFFFFFFFF9⟩).InFootprint a ∧ 2 ^ 64 - 1 < a :=
  (Command.overflows_iff _).mp (by decide +kernel)

/-- UnadmittedFootprintSticks, OnlyResetEndsAStuckCommand: the same frame on a platform that admits nothing. -/
def stuck1 : State := { running1 with platform := { platform with admitted := [] } }

theorem stuck1_inv : stuck1.Inv :=
  ⟨running1_inv.memWf, running1_inv.memInSpace, running1_inv.idxLeft, running1_inv.idxRight, running1_inv.snapFrame,
    running1_inv.snapAudio, running1_inv.notDone, running1_inv.pending, nofun, nofun⟩

theorem test_witness_unadmitted :
    (∀ a, (Command.repack frame1).InFootprint a → a ≤ 2 ^ 64 - 1) ∧
    (∃ a, (Command.repack frame1).InFootprint a ∧ stuck1.platform.admits a = false) := by
  refine ⟨fun a h => ?_, 0x8000, .inl ⟨0, by decide, rfl⟩, by decide⟩
  by_contra hn
  have := (Command.overflows_iff _).mpr ⟨a, h, by omega⟩
  revert this
  decide +kernel

theorem test_witness_stuck :
    stuck1.Inv ∧ stuck1.engine = .busy (.repack frame1) ∧ (Command.repack frame1).overflows = false ∧
    (Command.repack frame1).admittedBy stuck1.platform = false ∧
    ({ stuck1 with agenda := [.engine] }.agenda.head? ≠ some .reset) ∧
    step { stuck1 with agenda := [.engine] } = .next stuck1 := by
  have ho : (Command.repack frame1).overflows = false := by decide +kernel
  have ha : (Command.repack frame1).admittedBy stuck1.platform = false := by decide +kernel
  refine ⟨stuck1_inv, rfl, ho, ha, by decide, ?_⟩
  rw [show step { stuck1 with agenda := [.engine] } = exec (commandInstr (.repack frame1)) stuck1 from rfl,
    exec_commandInstr (c := .repack frame1) rfl, runCommand, ho, ha]
  rfl

/-- AdmittedCommandRecordsItsFaultsAndCompletes: a frame packed onto its own luma plane. -/
def overlapping1 : FrameRegs := { frame1 with dstAddr := 0x1000 }

theorem test_witness_overlap :
    (∀ a, (Command.repack overlapping1).InFootprint a → a ≤ 2 ^ 64 - 1 ∧ platform.admits a = true) ∧
    ∃ a, (Command.repack overlapping1).WritesAt a ∧ (Command.repack overlapping1).ReadsAt a := by
  refine ⟨fun a h => ⟨?_, (Command.admittedBy_iff _ platform).mp (by decide +kernel) a h⟩,
    (Command.overlaps_iff _).mp (by decide +kernel)⟩
  by_contra hn
  have := (Command.overflows_iff _).mpr ⟨a, h, by omega⟩
  revert this
  decide +kernel

/-- 60_exceptions.md R202, 20_memory.md R73: the fault is recorded, after those there were, and the command completes: its
length is still L, and U_MISSING and V_MISSING are still 0. -/
theorem test_overlap_is_recorded :
    let s := { busy (.repack overlapping1) (idle memory1) with faults := [.hostRace] }
    nextOf (fun t => (t.faults, t.engine, t.dstLen)) (exec .repack s) = some ([.overlap, .hostRace], .idle, 12#64) ∧
    nextOf (fun t => (t.repackResult.uMissing, t.repackResult.vMissing, t.status.done)) (exec .repack s) =
      some (false, false, true) := by decide +kernel

/-- AdmittedCommandRecordsItsFaultsAndCompletes: the U plane in memory with read side effects. -/
def sidePlatform : Platform := { platform with readSideEffects := [⟨0x2000, 1⟩] }

theorem test_witness_sideEffects :
    (∀ a, (Command.repack frame1).InFootprint a → a ≤ 2 ^ 64 - 1 ∧ sidePlatform.admits a = true) ∧
    ∃ a, (Command.repack frame1).InFootprint a ∧ sidePlatform.sideEffectAt a = true :=
  ⟨fun a h => ⟨test_witness_unadmitted.1 a h, (Command.admittedBy_iff _ sidePlatform).mp (by decide +kernel) a h⟩,
    (Command.touchesSideEffects_iff _ sidePlatform).mp (by decide +kernel)⟩

theorem test_sideEffects_are_recorded :
    nextOf (fun t => (t.faults, t.engine)) (exec .repack { running1 with platform := sidePlatform }) =
      some ([.nonIdempotent], .idle) := by decide +kernel

/-- ReadyCommandCompletesWhenTheHostIsQuiet, NoCommandReadsAFlag, InterruptFollowsDone and the statements of every
command: one that is ready, for each kind. -/
theorem test_witness_ready :
    running1.engine = .busy (.repack frame1) ∧ (Command.repack frame1).Ready running1 ∧
    decoding1.engine = .busy (.adpcmDecode audio1) ∧ (Command.adpcmDecode audio1).Ready decoding1 ∧
    Command.adpcmReset.Ready (idle []) ∧ running1.agenda = [] ∧
    (Command.repack frame1).admittedBy running1.platform = true :=
  ⟨rfl, running1_ready, rfl, decoding1_ready, ⟨rfl, rfl, rfl, rfl, rfl⟩, rfl, running1_ready.admitted⟩

/-- The REPACK statements, form by form: ready commands of FMT 0 to 5 that copy, and of FMT 6 and 255 that do not. -/
theorem test_witness_forms :
    (∀ f : Byte, f.toNat ≤ 6 ∨ f = 255#8 →
      (Command.repack { frame3 with p1Stride := 4, fmt := f }).Ready (idle memory3)) ∧
    (frame1.fmt.toNat ≤ 5 ∧ frame1.fill running1.mem = false ∧ 0 < frame1.uvSize ∧ Instr.repackP420 false = repackForm 0#8) ∧
    (frame3.fmt = 2#8 ∧ frame3.fill (idle memory3).mem = false) ∧
    ((frame4 4).fill (idle memory4).mem = false ∧ (frame4 5).fill (idle memory4).mem = false) ∧
    ((Command.repack (frame4 4)).Ready (idle memory4) ∧ (Command.repack (frame4 5)).Ready (idle memory4)) ∧
    (6 ≤ (6#8).toNat ∧ 6 ≤ (255#8).toNat) := by
  refine ⟨fun f hf => ?_, by decide +kernel, by decide +kernel, by decide +kernel,
    ⟨⟨by decide +kernel, by decide +kernel, by decide +kernel, by decide +kernel, rfl⟩,
      ⟨by decide +kernel, by decide +kernel, by decide +kernel, by decide +kernel, rfl⟩⟩, by decide⟩
  have h : ∀ f : Byte, f.toNat ≤ 6 ∨ f = 255#8 →
      (Command.repack { frame3 with p1Stride := 4, fmt := f }).overflows = false ∧
      (Command.repack { frame3 with p1Stride := 4, fmt := f }).admittedBy platform = true ∧
      (Command.repack { frame3 with p1Stride := 4, fmt := f }).touchesSideEffects platform = false ∧
      (Command.repack { frame3 with p1Stride := 4, fmt := f }).overlaps = false := by decide +kernel
  exact ⟨(h f hf).1, (h f hf).2.1, (h f hf).2.2.1, (h f hf).2.2.2, rfl⟩

/-- RepackFillsDegradedChroma: each reason to fill. -/
theorem test_witness_fill :
    ({ frame1 with p1Addr := 0 }).uMissing = true ∧ ({ frame1 with p2Addr := 0 }).vMissing = true ∧
    frame3.uSuspect (idle memory6).mem = true ∧ frame3.vSuspect [] = true ∧
    (Command.repack { frame1 with p1Addr := 0 }).Ready (idle memory1) ∧
    (Command.repack { frame1 with p2Addr := 0 }).Ready (idle memory1) ∧ (Command.repack frame3).Ready (idle memory6) :=
  ⟨by decide, by decide, by decide +kernel, by decide +kernel,
    ⟨by decide +kernel, by decide +kernel, by decide +kernel, by decide +kernel, rfl⟩,
    ⟨by decide +kernel, by decide +kernel, by decide +kernel, by decide +kernel, rfl⟩,
    ⟨by decide +kernel, by decide +kernel, by decide +kernel, by decide +kernel, rfl⟩⟩

/-- RepackIsPure: two memories that agree on RD and differ elsewhere, in a padding byte of the luma plane. -/
theorem test_witness_pure :
    (∀ a, frame1.ReadsAt a →
      Memory.read running1.mem a = Memory.read (Memory.write running1.mem 0x1004 0x77#8) a) ∧
    Memory.read running1.mem 0x1004 ≠ Memory.read (Memory.write running1.mem 0x1004 0x77#8) 0x1004 ∧
    { running1 with mem := Memory.write running1.mem 0x1004 0x77#8 }.engine = .busy (.repack frame1) ∧
    (Command.repack frame1).Ready { running1 with mem := Memory.write running1.mem 0x1004 0x77#8 } := by
  refine ⟨fun a h => ?_, by decide +kernel, rfl, ⟨by decide +kernel, by decide +kernel, by decide +kernel, by decide +kernel, rfl⟩⟩
  rw [Memory.read_write]
  split
  · rename_i ha
    have hc : Covers (Command.repack frame1).readSet a := (Command.readsAt_iff (.repack frame1) a).mp h
    subst ha
    have hn : ∀ sp ∈ (Command.repack frame1).readSet, sp.contains 0x1004 = false := by decide +kernel
    obtain ⟨sp, hsp, hb⟩ := hc
    rw [hn sp hsp] at hb
    cases hb
  · rfl

/-- ChannelStepIsAdpcmStep, ConstantNibblesBehaveAsStated: the ends of the index range, and both predictor cases. -/
theorem test_witness_channel :
    (⟨0, 88⟩ : Channel).idx.toNat ≤ 88 ∧ (⟨0x8000, 0⟩ : Channel).pred.toInt = -32768 ∧
    (⟨0x7FFF, 0⟩ : Channel).pred.toInt ≠ -32768 ∧ (⟨5, 0⟩ : Channel).idx = 0#7 := by decide

/-- DecodeInTwoPartsIsDecodeAtOnce: PROG3's six bytes as four and two. -/
theorem test_witness_parts :
    (Command.adpcmDecode ⟨0x4000, 6, 0x5000⟩).Ready decoding1 ∧
    (0x4004#64).toNat = (0x4000#64).toNat + (4#32).toNat ∧ (0x5020#64).toNat = (0x5000#64).toNat + 8 * (4#32).toNat ∧
    (6#32).toNat = (4#32).toNat + (2#32).toNat :=
  ⟨⟨by decide +kernel, by decide +kernel, by decide +kernel, by decide +kernel, rfl⟩, by decide, by decide, by decide⟩

/-- EmptyDecodeChangesNothing, AdpcmResetClearsBothChannels, SampleIsThePredictorExactly at its ends. -/
theorem test_witness_adpcm :
    (busy (.adpcmDecode ⟨0xFFFFFFFFFFFFFFFF, 0, 0xFFFFFFFFFFFFFFFF⟩) (idle [])).engine =
      .busy (.adpcmDecode ⟨0xFFFFFFFFFFFFFFFF, 0#32, 0xFFFFFFFFFFFFFFFF⟩) ∧
    (busy .adpcmReset (idle [])).engine = .busy .adpcmReset ∧ (-32768 : Int) ≤ -32768 ∧ (32767 : Int) ≤ 32767 := by
  decide +kernel

/-- ChannelStateChangesOnlyAsStated: each kind of step that changes a channel, as the host's and the engine's move. -/
theorem test_witness_channel_change :
    let s := { idle [] with chL := ⟨5, 3⟩, chR := ⟨7, 2⟩ }
    nextOf (fun t => decide (t.chL ≠ decoding1.chL)) (step decoding1) = some true ∧
    nextOf (fun t => decide (t.chR ≠ s.chR)) (step { s with agenda := [.reset] }) = some true ∧
    nextOf (fun t => decide (t.chL ≠ s.chL)) (step { s with agenda := [.access ⟨true, 0x100A8, 8, 9⟩] }) = some true ∧
    { s with agenda := [.access ⟨true, 0x100A8, 8, 9⟩] }.hostInstr = some (.mmioWrite 21 9) ∧
    { s with agenda := [.transactions [0x96, 0, 0, 0, 0, 0, 0, 0, 0]] }.hostInstr = some (.mmioWrite 22 0) := by
  decide +kernel

/-- NoCommandReadsAFlag: V-REP-1 in flight with every flag the other way round; its sticky bits stay. -/
theorem test_witness_flags :
    let s := { running1 with
      irqEn := true
      status := ⟨false, true, true, true, true, false⟩
      repackResult := ⟨true, true, true, true, true, true, true, true⟩ }
    nextOf (bytesAt 0x8000 12) (exec .repack s) = nextOf (bytesAt 0x8000 12) (exec .repack running1) ∧
    nextOf (·.repackResult) (exec .repack s) = nextOf (·.repackResult) (exec .repack running1) ∧
    nextOf (·.status) (exec .repack s) = some ⟨true, true, true, true, true, true⟩ := by decide +kernel

/-- 20_memory.md R69, 60_exceptions.md R202: a host write to a byte the command reads is recorded, lands, and marks the
command, which then completes with both channels and its 32 output bytes draws (notes/assumptions/14.md). -/
theorem test_host_race :
    let s := { decoding1 with agenda := [.memWrite 0x4001 0x55] }
    nextOf (fun t => (t.faults, t.raced, Memory.read t.mem 0x4001)) (step s) = some ([.hostRace], true, 0x55#8) ∧
    nextOf (fun t => (t.engine, t.draws)) (step { decoding1 with raced := true }) = some (.idle, 34) := by
  decide +kernel

/-- OnlyAStatusReadSynchronises: an acceptance opens a window, a reset leaves it, and the STATUS read of BUSY = 0 ends it. -/
theorem test_witness_windows :
    nextOf (·.unsynced) (step { idle [] with agenda := [.transactions [0x83, 3, 0, 0, 0, 0, 0, 0, 0]] }) =
      some [.adpcmReset] ∧
    nextOf (·.unsynced) (step { running1 with agenda := [.reset] }) = some [.repack frame1] ∧
    nextOf (·.unsynced) (step { running1 with engine := .idle, agenda := [.transactions [0x02]] }) = some [] := by
  decide +kernel

/-- 20_memory.md R69, R71, R75: after REPACK has completed and the block was reset, its output byte is still a draw, and a
write of it still races. -/
theorem test_reset_is_no_ordering_point :
    let s := assertReset { running1 with engine := .idle }
    nextOf (·.draws) (step { s with agenda := [.memRead 0x8000] }) = some 1 ∧
    nextOf (·.faults) (step { s with agenda := [.memWrite 0x8000 1] }) = some [.hostRace] := by decide +kernel

/-- 20_memory.md R69: a byte a command only reads is memory's value, in memory with read side effects too; a byte no command
touches is refused there. -/
theorem test_host_read_source :
    nextOf (·.readData) (step { running1 with platform := sidePlatform, agenda := [.memRead 0x2000] }) = some 0x50#64 ∧
    step { idle memory1 with platform := sidePlatform, agenda := [.memRead 0x2000] } =
      .refused (.platformMemory 0x2000) :=
  ⟨by decide +kernel, rfl⟩

/-- 20_memory.md R69: an output byte reads as a draw where the platform admits nothing, and any other byte is refused
there. -/
theorem test_host_read_unadmitted :
    nextOf (·.draws) (step { stuck1 with agenda := [.memRead 0x8000] }) = some 1 ∧
    step { stuck1 with agenda := [.memRead 0x1000] } = .refused (.platformMemory 0x1000) :=
  ⟨by decide +kernel, rfl⟩

/-- The host memory statements: the agenda, a byte a command in flight writes, reads, and does not touch. -/
theorem test_witness_host_memory :
    { running1 with agenda := [.memWrite 0x8000 1] }.agenda = .memWrite 0x8000#64 1#8 :: [] ∧
    { running1 with agenda := [.memRead 0x2000] }.agenda = .memRead 0x2000#64 :: [] ∧
    Command.repack frame1 ∈ running1.unsynced ∧
    ((Command.repack frame1).InFootprint (0x8000#64).toNat ∧ (Command.repack frame1).WritesAt (0x800B#64).toNat) ∧
    (∀ c ∈ running1.unsynced, ¬ c.InFootprint (0x9000#64).toNat) ∧
    (∀ c ∈ running1.unsynced, ¬ c.WritesAt (0x2000#64).toNat) ∧
    running1.platform.admits (0x9000#64).toNat = true ∧ running1.platform.sideEffectAt (0x9000#64).toNat = false := by
  refine ⟨rfl, rfl, List.mem_singleton.mpr rfl, ⟨.inl ⟨0, by decide, rfl⟩, ⟨11, by decide, rfl⟩⟩, ?_, ?_, by decide +kernel,
    by decide +kernel⟩
  · intro c hc
    cases List.mem_singleton.mp hc
    rw [Command.inFootprint_iff]
    rintro ⟨sp, hsp, hb⟩
    have hn : ∀ sp ∈ (Command.repack frame1).footprint, sp.contains (0x9000#64).toNat = false := by decide +kernel
    rw [hn sp hsp] at hb
    cases hb
  · intro c hc
    cases List.mem_singleton.mp hc
    rw [Command.writesAt_iff]
    decide +kernel

end Sys2Proof.Tests
end

section
/-! SUPPORT. No step changes the OPEN parameters (00_scope.md R5): each move an agent can make keeps the platform. -/

namespace Sys2Proof.Machine

/-- A host read of a register keeps the platform (40_host_interface.md R100). -/
@[simp] theorem hostRead_platform (r : Reg) (s : State) : (hostRead r s).platform = s.platform := by
  unfold hostRead
  split <;> split <;> simp

/-- A write of CMD keeps the platform, accepted or not (40_host_interface.md R103). -/
@[simp] theorem commandWrite_platform (v : Word) (s : State) : (commandWrite v s).platform = s.platform := by
  unfold commandWrite
  split <;> simp

/-- A landed register write keeps the platform (40_host_interface.md R101). -/
@[simp] theorem writeReg_platform (r : Reg) (v : Word) (s : State) : (writeReg r v s).platform = s.platform :=
  let ⟨_, _, hPlatform, _⟩ := writeReg_keeps r v s
  hPlatform

/-- A host write of a register keeps the platform, whether it is turned away, a command or landed
(40_host_interface.md R101 to R103). -/
@[simp] theorem hostWrite_platform (r : Reg) (v : Word) (s : State) : (hostWrite r v s).platform = s.platform := by
  unfold hostWrite
  split
  · exact raiseErrBusy_platform s
  · split
    · exact commandWrite_platform v s
    · exact writeReg_platform r v s

/-- A reset keeps the platform, where its other registers take their reset values (70_reset_and_hazards.md R220). -/
@[simp] theorem assertReset_platform (s : State) : (assertReset s).platform = s.platform := rfl

/-- A racing host write of memory keeps the platform (20_memory.md R69). -/
@[simp] theorem raceWrite_platform (a : Nat) (b : Byte) (s : State) : (raceWrite a b s).platform = s.platform := by
  rw [raceWrite_eq]

/-- No command's body changes the platform. -/
@[simp] theorem commandBody_platform (c : Command) (s : State) : (commandBody c s).platform = s.platform :=
  let ⟨_, _, _, _, hPlatform, _⟩ := commandBody_keeps c s
  hPlatform

/-- What a faulted command forgets does not reach the platform: it is the body's (notes/assumptions/14.md). -/
@[simp] theorem faultedBody_platform (c : Command) (body : State → State) (s : State) :
    (faultedBody c body s).platform = (body s).platform := by
  obtain ⟨m, d, rr, l, r, hState, -⟩ := faultedBody_spec c body s
  rw [hState]

/-- ENGINE_COMPLETE keeps the platform in each of its outcomes: ERR_ADDR, stuck, faulted and ready
(40_host_interface.md R108). -/
theorem runCommand_keeps_platform {c : Command} {s t : State} (h : runCommand c (commandBody c) s = .next t) :
    t.platform = s.platform := by
  rcases runCommand_cases c (commandBody c) s with ⟨-, hRun⟩ | ⟨-, -, hRun⟩ | ⟨-, -, -, hRun⟩ | ⟨-, hRun⟩ <;>
    cases hRun.symm.trans h
  · rw [completeCommand_platform, raiseErrAddr_platform]
  · rfl
  · rw [completeCommand_platform, faultedBody_platform, commandBody_platform]
  · rw [completeCommand_platform, commandBody_platform]

/-- Settles O7: each of the moves that `step_cases` lists keeps the platform. -/
theorem noStepChangesThePlatform : Obligations.NoStepChangesThePlatform := by
  intro s t h
  rcases step_cases h with ⟨ag, k, -, rfl⟩ | ⟨ag, k, v, -, rfl⟩ | ⟨rest, -, rfl⟩ | ⟨rest, -, -, rfl⟩ |
    ⟨rest, c, -, hBusy, hExec⟩ | ⟨rest, a, rfl | rfl⟩ | ⟨rest, a, b, rfl | rfl⟩
  · exact hostRead_platform _ _
  · exact hostWrite_platform _ _ _
  · exact assertReset_platform _
  · rfl
  · rw [exec_commandInstr (s := { s with agenda := rest }) hBusy] at hExec
    exact (runCommand_keeps_platform hExec :)
  · exact drawByte_platform _
  · exact returnWord_platform _ _
  · exact storeByte_platform _ _ _
  · exact raceWrite_platform _ _ _

end Sys2Proof.Machine
end

section
/-! SUPPORT. What the host's register transactions do, case by case (40_host_interface.md R100 to R103). -/

namespace Sys2Proof.Machine

variable {r : Reg} {v : Word} {s : State}

/-- Everything a host read can do: draw a channel while BUSY, end the window of host duty, or return the value. -/
theorem hostRead_cases (r : Reg) (s : State) :
    (s.busy = true ∧ (r = .chL ∨ r = .chR) ∧ hostRead r s = drawWord s) ∨
    (s.busy = false ∧ r = .status ∧ hostRead r s = synchronise (returnWord (regWord r s) s)) ∨
    hostRead r s = returnWord (regWord r s) s := by
  unfold hostRead
  split <;> split <;> simp_all

/-- A read that is no draw returns the register (40_host_interface.md R100, 70_reset_and_hazards.md R228). -/
theorem hostRead_readData (h : s.busy = false ∨ (r ≠ .chL ∧ r ≠ .chR)) : (hostRead r s).readData = regWord r s := by
  rcases hostRead_cases r s with ⟨hBusy, hChannel, -⟩ | ⟨-, -, hRead⟩ | hRead
  · simp_all
  · rw [hRead]; rfl
  · rw [hRead]; rfl

/-- Everything a host write can do: be dropped while BUSY, be a command, or land in the register
(40_host_interface.md R101 to R103). -/
theorem hostWrite_cases (r : Reg) (v : Word) (s : State) :
    (s.busy = true ∧ hostWrite r v s = raiseErrBusy s) ∨
    (s.busy = false ∧ r = .cmd ∧ hostWrite r v s = commandWrite v s) ∨
    ((s.busy = false ∨ r = .ctrl ∨ r = .status) ∧ hostWrite r v s = writeReg r v s) := by
  unfold hostWrite
  by_cases hDrop : s.busy = true ∧ r ≠ .ctrl ∧ r ≠ .status
  · exact .inl ⟨hDrop.1, if_pos hDrop⟩
  · have hLands : s.busy = false ∨ r = .ctrl ∨ r = .status := by
      by_contra hNot
      exact hDrop (by simpa using hNot)
    rw [if_neg hDrop]
    by_cases hCmd : r = .cmd
    · exact .inr (.inl ⟨by simpa [hCmd] using hLands, hCmd, if_pos hCmd⟩)
    · exact .inr (.inr ⟨hLands, if_neg hCmd⟩)

/-- While IDLE a write of any register but CMD lands (40_host_interface.md R101). -/
theorem hostWrite_of_idle (h : s.busy = false) (hCmd : r ≠ .cmd) : hostWrite r v s = writeReg r v s := by
  simp [hostWrite, h, hCmd]

/-- While IDLE a write of CMD is COMMAND_WRITE (40_host_interface.md R103). -/
theorem hostWrite_cmd_of_idle (h : s.busy = false) : hostWrite .cmd v s = commandWrite v s := by
  simp [hostWrite, h]

/-- A write of STATUS lands in either phase (40_host_interface.md R102). -/
theorem hostWrite_status : hostWrite .status v s = writeReg .status v s := by
  simp [hostWrite]

/-- A write of CTRL lands in either phase (40_host_interface.md R102). -/
theorem hostWrite_ctrl : hostWrite .ctrl v s = writeReg .ctrl v s := by
  simp [hostWrite]

/-- COMMAND_WRITE rejects the opcode or accepts the command (40_host_interface.md R103). -/
theorem commandWrite_cases (v : Word) (s : State) :
    commandWrite v s = raiseErrCmd s ∨ ∃ op, commandWrite v s = acceptCommand (snapshot op s) s := by
  unfold commandWrite
  split
  · exact .inl rfl
  · exact .inr ⟨_, rfl⟩

/-- The opcodes that are not legal (30_encoding.md R81). -/
theorem legalOpcode_eq_none_iff (op : Byte) : legalOpcode op = none ↔ op.toNat = 0 ∨ 4 ≤ op.toNat := by
  revert op; decide +kernel

/-- OPCODE as a number (30_encoding.md R80). -/
@[simp] theorem opcodeField_toNat (v : Word) : (opcodeField v).toNat = v.toNat % 256 := by
  simp [opcodeField]

/-- A CMD write of an illegal opcode is rejected (40_host_interface.md R103). -/
theorem commandWrite_of_illegal (h : v.toNat % 256 = 0 ∨ 4 ≤ v.toNat % 256) : commandWrite v s = raiseErrCmd s := by
  have hNone : legalOpcode (opcodeField v) = none := (legalOpcode_eq_none_iff _).mpr (by simpa using h)
  simp [commandWrite, hNone]

/-- A CMD write of a legal opcode is accepted (40_host_interface.md R103). -/
theorem commandWrite_of_legal (h : v.toNat % 256 = 1 ∨ v.toNat % 256 = 2 ∨ v.toNat % 256 = 3) :
    ∃ op, commandWrite v s = acceptCommand (snapshot op s) s := by
  cases hOp : legalOpcode (opcodeField v) with
  | none =>
    have := (legalOpcode_eq_none_iff _).mp hOp
    rw [opcodeField_toNat] at this
    omega
  | some op => exact ⟨op, by simp [commandWrite, hOp]⟩

/-- A landed write of a register other than CH_L leaves the left channel. -/
theorem writeReg_chL (h : r ≠ .chL) : (writeReg r v s).chL = s.chL := by
  cases r <;> simp_all [writeReg]

/-- A landed write of a register other than CH_R leaves the right channel. -/
theorem writeReg_chR (h : r ≠ .chR) : (writeReg r v s).chR = s.chR := by
  cases r <;> simp_all [writeReg]

/-- The registers whose fields are all RO or WO, and the reserved slots, ignore a landed write
(40_host_interface.md R101). -/
theorem writeReg_of_readOnly
    (h : r ∈ [Reg.version, .cmd, .repackResult, .dstLen, .recDim, .unsupCount, .reserved]) : writeReg r v s = s := by
  cases r <;> simp_all [writeReg]

/-- The slots from 0xB8 on are reserved (10_state.md R42). -/
theorem slotReg_of_reserved : ∀ k : BitVec 5, 23 ≤ k.toNat → slotReg k = .reserved := by decide +kernel

/-- PRED of a written channel is bits [15:0] (10_state.md R41). -/
theorem channelOfWord_pred (v : Word) : (channelOfWord v).pred.toNat = v.toNat % 2 ^ 16 := by
  simp [channelOfWord]

/-- IDX of a written channel is bits [22:16], at most 88 (10_state.md R41). -/
theorem channelOfWord_idx_eq (v : Word) : (channelOfWord v).idx.toNat = min (v.toNat / 2 ^ 16 % 2 ^ 7) 88 := by
  have hLegal : ∀ x : BitVec 7, (legaliseIdx x).toNat = min x.toNat 88 := by decide +kernel
  simp [channelOfWord, hLegal, Nat.shiftRight_eq_div_pow]

/-- A field of `n` bits at bit 0 of a word leaves the bits from `n` on at 0. -/
theorem setWidth_ushiftRight_self {n : Nat} (x : BitVec n) (hn : n ≤ 64) : (x.setWidth 64 : Word) >>> n = 0#64 := by
  apply BitVec.eq_of_toNat_eq
  rw [BitVec.toNat_ushiftRight, BitVec.toNat_setWidth_of_le hn, Nat.shiftRight_eq_div_pow,
    Nat.div_eq_of_lt x.isLt]
  rfl

end Sys2Proof.Machine
end

section
/-! SUPPORT. The register file as the host reads and writes it (10_state.md R24 to R42). -/

namespace Sys2Proof.Machine

/-- Settles O18: a read that is no draw returns the register, whose fields stop below the reserved bits. -/
theorem reservedBitsReadZero : Obligations.ReservedBitsReadZero := by
  intro s k hNoDraw
  have hRead : (hostRead (slotReg k) s).readData = regWord (slotReg k) s := by
    refine hostRead_readData (hNoDraw.imp_right fun hSlot => ?_)
    rw [← not_or, slotReg_channel]
    exact not_or.mpr hSlot
  refine ⟨_, rfl, ?_⟩
  rw [hRead]
  refine ⟨?version, ?ctrl, ?status, ?cmd, ?dims, ?format, ?lengths, ?channels, ?reserved⟩
  case version => rintro rfl; rfl
  case ctrl => rintro rfl; exact setWidth_ushiftRight_self (BitVec.ofBool s.irqEn) (by decide)
  case status => rintro rfl; exact setWidth_ushiftRight_self (n := 7) _ (by decide)
  case cmd => rintro rfl; rfl
  case dims => rintro (rfl | rfl) <;> exact setWidth_ushiftRight_self (n := 16) _ (by decide)
  case format => rintro (rfl | rfl) <;> exact setWidth_ushiftRight_self (n := 8) _ (by decide)
  case lengths =>
    rintro (rfl | rfl | rfl | rfl | rfl) <;> exact setWidth_ushiftRight_self (n := 32) _ (by decide)
  case channels => rintro (rfl | rfl) <;> exact setWidth_ushiftRight_self (n := 23) _ (by decide)
  case reserved => intro hk; rw [slotReg_of_reserved k hk]; rfl

/-- Settles O23: while IDLE such a write lands, and no field of the register is writable. -/
theorem readOnlyAndReservedIgnoreWrites : Obligations.ReadOnlyAndReservedIgnoreWrites := by
  intro s k v hIdle hSlot
  have hMem : slotReg k ∈ [Reg.version, .repackResult, .dstLen, .recDim, .unsupCount, .reserved] := by
    revert k; decide +kernel
  have hCmd : slotReg k ≠ .cmd := fun h => by simp [h] at hMem
  change Host.Outcome.next (hostWrite (slotReg k) v s) = .next s
  rw [hostWrite_of_idle hIdle hCmd, writeReg_of_readOnly (by simp_all)]

/-- Settles O24: a write of STATUS or CTRL lands in either phase. -/
theorem statusIsWriteOneToClearAndControlIsWritable : Obligations.StatusIsWriteOneToClearAndControlIsWritable :=
  ⟨fun _ _ => congrArg Host.Outcome.next hostWrite_status, fun _ _ => congrArg Host.Outcome.next hostWrite_ctrl⟩

/-- Settles O25: while IDLE the write lands, and what it stores is `channelOfWord`. -/
theorem channelWriteIsLegalised : Obligations.ChannelWriteIsLegalised := by
  intro s v hIdle
  have hLands : ∀ {r : Reg}, r ≠ .cmd → hostWrite r v s = writeReg r v s := hostWrite_of_idle hIdle
  exact ⟨⟨_, congrArg Host.Outcome.next (hLands (r := .chL) nofun), rfl, channelOfWord_pred v, channelOfWord_idx_eq v⟩,
    ⟨_, congrArg Host.Outcome.next (hLands (r := .chR) nofun), rfl, channelOfWord_pred v, channelOfWord_idx_eq v⟩⟩

end Sys2Proof.Machine
end

section
/-! SUPPORT. ENGINE_COMPLETE case by case (40_host_interface.md R108), and which instructions answer a next state. -/

namespace Sys2Proof.Machine

variable {c : Command} {s t : State}

/-- A footprint past 2^64 - 1 ends the command with ERR_ADDR (41_repack.md R124, 42_adpcm.md R170). -/
theorem runCommand_of_overflows (body : State → State) (ho : c.overflows = true) :
    runCommand c body s = .next (completeCommand (raiseErrAddr s)) := by
  simp [runCommand, ho]

/-- A footprint that is not all admitted leaves the engine stuck (20_memory.md R67). -/
theorem runCommand_of_not_admitted (body : State → State) (ho : c.overflows = false)
    (ha : c.admittedBy s.platform = false) : runCommand c body s = .next s := by
  simp [runCommand, ho, ha]

/-- A command that meets a fault completes all the same (60_exceptions.md R202). -/
theorem runCommand_of_fault (body : State → State) (ho : c.overflows = false) (ha : c.admittedBy s.platform = true)
    (hf : c.touchesSideEffects s.platform = true ∨ c.overlaps = true ∨ s.raced = true) :
    runCommand c body s = .next (completeCommand (faultedBody c body s)) := by
  simp [runCommand, ho, ha, or_assoc, hf]

/-- The form of a REPACK that answers a next state is the form in flight (40_host_interface.md R108). -/
theorem withRepackInFlight_next {f : Byte} {run : FrameRegs → Host.Outcome State Fault Refusal}
    (h : withRepackInFlight f s run = .next t) : ∃ o, s.engine = .busy (.repack o) ∧ o.fmt = f := by
  unfold withRepackInFlight at h
  split at h
  · rename_i o hEngine
    split at h
    · exact ⟨o, hEngine, ‹_›⟩
    · cases h
  · cases h

/-- REPACK is the form that the snapshot's FMT selects (41_repack.md R138, 30_encoding.md R82). -/
theorem exec_repackForm {o : FrameRegs} (h : s.engine = .busy (.repack o)) :
    exec (repackForm o.fmt) s = exec .repack s := by
  simp only [exec, execRepack, h, repackForm]
  cases fmtClass o.fmt <;> rfl

/-- A form of REPACK that answers a next state ran the command in flight. -/
theorem runCommand_of_form {i : Instr} {f : Byte} (hForm : repackForm f = i)
    (hFlight : ∃ o, s.engine = .busy (.repack o) ∧ o.fmt = f) (h : exec i s = .next t) :
    ∃ c, s.engine = .busy c ∧ runCommand c (commandBody c) s = .next t := by
  obtain ⟨o, hBusy, rfl⟩ := hFlight
  refine ⟨_, hBusy, ?_⟩
  rw [← exec_commandInstr hBusy, ← h, ← hForm, exec_repackForm hBusy]
  rfl

/-- An OTHER format's form carries the format itself (30_encoding.md R82). -/
theorem repackForm_of_not_supported {f : Byte} (h : supported f = false) : repackForm f = .repackOther f := by
  have hClass : fmtClass f = .other := by simpa [supported] using h
  simp [repackForm, hClass]

/-- Everything an instruction that answers a next state can do: the engine's step of the command in flight, a host read or
write, or the dropping or the rejection of an illegal opcode. -/
theorem exec_cases {i : Instr} (h : exec i s = .next t) :
    (∃ c, s.engine = .busy c ∧ runCommand c (commandBody c) s = .next t) ∨
    (∃ k, i = .mmioRead k ∧ t = hostRead (slotReg k) s) ∨
    (∃ k v, i = .mmioWrite k v ∧ t = hostWrite (slotReg k) v s) ∨
    t = raiseErrBusy s ∨ t = raiseErrCmd s := by
  cases i with
  | mmioRead k => exact .inr (.inl ⟨k, rfl, by cases h; rfl⟩)
  | mmioWrite k v => exact .inr (.inr (.inl ⟨k, v, rfl, by cases h; rfl⟩))
  | illegalOpcode op =>
    simp only [exec, execIllegalOpcode] at h
    split at h
    · cases h
    · split at h
      · exact .inr (.inr (.inr (.inl (by cases h; rfl))))
      · exact .inr (.inr (.inr (.inr (by cases h; rfl))))
  | repack =>
    have hFlight : ∃ o, s.engine = .busy (.repack o) := by
      simp only [exec, execRepack] at h
      split at h
      · exact ⟨_, ‹_›⟩
      · cases h
    obtain ⟨o, hBusy⟩ := hFlight
    exact .inl ⟨_, hBusy, (exec_commandInstr hBusy).symm.trans h⟩
  | repackP420 full =>
    exact .inl (runCommand_of_form (by cases full <;> rfl) (withRepackInFlight_next h) h)
  | repackP422 full =>
    exact .inl (runCommand_of_form (by cases full <;> rfl) (withRepackInFlight_next h) h)
  | repackNvU => exact .inl (runCommand_of_form rfl (withRepackInFlight_next h) h)
  | repackNvV => exact .inl (runCommand_of_form rfl (withRepackInFlight_next h) h)
  | repackOther f =>
    cases hSup : supported f with
    | true => simp [exec, execRepackOther, hSup] at h
    | false =>
      have hFlight : ∃ o, s.engine = .busy (.repack o) ∧ o.fmt = f := by
        simp only [exec, execRepackOther, hSup, Bool.false_eq_true, if_false] at h
        exact withRepackInFlight_next h
      exact .inl (runCommand_of_form (repackForm_of_not_supported hSup) hFlight h)
  | adpcmDecode =>
    have hFlight : ∃ o, s.engine = .busy (.adpcmDecode o) := by
      simp only [exec, execAdpcmDecode] at h
      split at h
      · exact ⟨_, ‹_›⟩
      · cases h
    obtain ⟨o, hBusy⟩ := hFlight
    exact .inl ⟨_, hBusy, (exec_commandInstr hBusy).symm.trans h⟩
  | adpcmReset =>
    have hBusy : s.engine = .busy .adpcmReset := by
      simp only [exec, execAdpcmReset] at h
      split at h
      · rename_i hEngine; exact hEngine
      · cases h
    exact .inl ⟨_, hBusy, (exec_commandInstr hBusy).symm.trans h⟩

/-- What a command that completes leaves before DONE is set and BUSY cleared: ERR_ADDR, or the body's effect with or
without a fault. -/
theorem runCommand_next_of_admitted (body : State → State) (h : c.overflows = true ∨ c.admittedBy s.platform = true) :
    ∃ u, (u = raiseErrAddr s ∨ u = faultedBody c body s ∨ u = body s) ∧
      runCommand c body s = .next (completeCommand u) := by
  rcases runCommand_cases c body s with ⟨-, hRun⟩ | ⟨ho, ha, -⟩ | ⟨-, -, -, hRun⟩ | ⟨-, hRun⟩
  · exact ⟨_, by simp, hRun⟩
  · simp [ho, ha] at h
  · exact ⟨_, by simp, hRun⟩
  · exact ⟨_, by simp, hRun⟩

@[simp] theorem commandBody_irqEn (c : Command) (s : State) : (commandBody c s).irqEn = s.irqEn :=
  (commandBody_keeps c s).1

/-- A fault changes no register but those the command computes from what it reads (notes/assumptions/14.md). -/
@[simp] theorem faultedBody_irqEn (c : Command) (body : State → State) (s : State) :
    (faultedBody c body s).irqEn = (body s).irqEn := by
  obtain ⟨m, d, rr, l, r, hState, -⟩ := faultedBody_spec c body s
  rw [hState]

@[simp] theorem faultedBody_status (c : Command) (body : State → State) (s : State) :
    (faultedBody c body s).status = (body s).status := by
  obtain ⟨m, d, rr, l, r, hState, -⟩ := faultedBody_spec c body s
  rw [hState]

/-- A completion raises irq where IRQ_EN is 1 (60_exceptions.md R204). -/
@[simp] theorem completeCommand_irq (s : State) : (completeCommand s).irq = s.irqEn := by simp [State.irq]

/-- A rejection raises irq where IRQ_EN is 1 (60_exceptions.md R204). -/
@[simp] theorem raiseErrCmd_irq (s : State) : (raiseErrCmd s).irq = s.irqEn := by simp [State.irq]

end Sys2Proof.Machine
end

section
/-! SUPPORT. The flags: irq follows DONE (10_state.md R44), and an error or DIAG bit stays until STATUS is written
(10_state.md R27). -/

namespace Sys2Proof.Machine

/-- Settles O29: a completion and a rejection set DONE, and the three writes clear DONE or IRQ_EN. -/
theorem interruptFollowsDone : Obligations.InterruptFollowsDone := by
  refine ⟨fun _ => rfl, ?completion, ?illegal, ?rejection, ?clear, ?acceptance, ?disable⟩
  case completion =>
    intro s c hBusy hChecks
    rw [← Command.overflows_iff, ← Command.admittedBy_iff] at hChecks
    obtain ⟨u, hu, hRun⟩ := runCommand_next_of_admitted (commandBody c) hChecks
    refine ⟨_, (exec_commandInstr hBusy).trans hRun, ?_⟩
    have hIrqEn : u.irqEn = s.irqEn := by
      rcases hu with rfl | rfl | rfl <;> simp
    rw [completeCommand_irq, hIrqEn]
  case illegal =>
    intro s op hIdle hOp
    have hNone := (legalOpcode_eq_none_iff op).mpr hOp
    exact ⟨raiseErrCmd s, by simp [exec, execIllegalOpcode, hNone, hIdle], raiseErrCmd_irq s⟩
  case rejection =>
    intro s v hIdle hOp
    refine ⟨_, rfl, ?_⟩
    change (hostWrite .cmd v s).irq = s.irqEn
    rw [hostWrite_cmd_of_idle hIdle, commandWrite_of_illegal hOp, raiseErrCmd_irq]
  case clear =>
    intro s v hBit
    refine ⟨_, rfl, ?_⟩
    change (hostWrite .status v s).irq = false
    rw [hostWrite_status]
    simp [State.irq, writeReg, clearStatus, hBit]
  case acceptance =>
    intro s v hIdle hOp
    obtain ⟨op, hAccept⟩ := commandWrite_of_legal (s := s) hOp
    refine ⟨_, rfl, ?_⟩
    change (hostWrite .cmd v s).irq = false
    rw [hostWrite_cmd_of_idle hIdle, hAccept]
    simp [State.irq]
  case disable =>
    intro s v hBit
    refine ⟨_, rfl, ?_⟩
    change (hostWrite .ctrl v s).irq = false
    rw [hostWrite_ctrl]
    change (v.getLsbD 0 && s.status.done) = false
    rw [hBit, Bool.false_and]

/-- Every error and DIAG bit of `a` that is 1 is 1 in `b`: the sticky bits, DONE not among them (10_state.md R27). -/
def Status.StickyLe (a b : Status) : Prop :=
  (a.errCmd = true → b.errCmd = true) ∧ (a.errBusy = true → b.errBusy = true) ∧
  (a.errAddr = true → b.errAddr = true) ∧
  (a.diagUnsup = true → b.diagUnsup = true) ∧ (a.diagDim = true → b.diagDim = true)

theorem Status.StickyLe.refl (a : Status) : a.StickyLe a := ⟨id, id, id, id, id⟩

/-- A host read changes no bit of STATUS (40_host_interface.md R100). -/
theorem hostRead_status (r : Reg) (s : State) : (hostRead r s).status = s.status := by
  rcases hostRead_cases r s with ⟨-, -, hRead⟩ | ⟨-, -, hRead⟩ | hRead <;> rw [hRead] <;> rfl

/-- A host write of another register than STATUS clears no sticky bit (70_reset_and_hazards.md R229). -/
theorem hostWrite_stickyLe {r : Reg} (h : r ≠ .status) (v : Word) (s : State) :
    s.status.StickyLe (hostWrite r v s).status := by
  rcases hostWrite_cases r v s with ⟨-, hWrite⟩ | ⟨-, -, hWrite⟩ | ⟨-, hWrite⟩ <;> rw [hWrite]
  · simp [Status.StickyLe]
  · rcases commandWrite_cases v s with hCmd | ⟨op, hCmd⟩ <;> rw [hCmd] <;> simp [Status.StickyLe]
  · obtain ⟨-, -, -, -, -, -, -, -, -, hStatus⟩ := writeReg_keeps r v s
    rw [hStatus h]
    exact .refl _

/-- A command's body clears no bit of STATUS: REPACK's notices only set theirs (41_repack.md R121, R134). -/
theorem commandBody_stickyLe (c : Command) (s : State) : s.status.StickyLe (commandBody c s).status := by
  cases c with
  | repack o =>
    simp only [commandBody, repackBody_eq, unsupportedNotice]
    split <;> simp +contextual [Status.StickyLe]
  | adpcmDecode o => exact .refl _
  | adpcmReset => exact .refl _

/-- The engine's step clears no sticky bit, whatever its outcome (70_reset_and_hazards.md R229). -/
theorem runCommand_stickyLe {c : Command} {s t : State} (h : runCommand c (commandBody c) s = .next t) :
    s.status.StickyLe t.status := by
  have hBody := commandBody_stickyLe c s
  rcases runCommand_cases c (commandBody c) s with ⟨-, hRun⟩ | ⟨-, -, hRun⟩ | ⟨-, -, -, hRun⟩ | ⟨-, hRun⟩ <;>
    cases hRun.symm.trans h
  · simp [Status.StickyLe]
  · exact .refl _
  · simpa [Status.StickyLe] using hBody
  · simpa [Status.StickyLe] using hBody

/-- Settles O27: each thing an instruction can do but a write of STATUS keeps the sticky bits. -/
theorem onlyAStatusWriteClearsAStickyBit : Obligations.OnlyAStatusWriteClearsAStickyBit := by
  intro i s t h hNotStatus
  change s.status.StickyLe t.status
  rcases exec_cases h with ⟨c, -, hRun⟩ | ⟨k, -, rfl⟩ | ⟨k, v, rfl, rfl⟩ | rfl | rfl
  · exact runCommand_stickyLe hRun
  · rw [hostRead_status]
    exact .refl _
  · refine hostWrite_stickyLe (fun hReg => ?_) v s
    exact hNotStatus v (by rw [(slotReg_eq_status k).mp hReg])
  · simp [Status.StickyLe]
  · simp [Status.StickyLe]

end Sys2Proof.Machine
end

section
/-! SUPPORT. The flags as an output alone (10_state.md R46): every operation of the engine commutes with a change of
IRQ_EN, STATUS and REPACK_RESULT. -/

namespace Sys2Proof.Machine

/-- The state with other contents of CTRL, STATUS and REPACK_RESULT, the registers that hold flags (10_state.md R46). -/
def State.withFlags (irqEn : Bool) (st : Status) (rr : RepackResult) (s : State) : State :=
  { s with irqEn := irqEn, status := st, repackResult := rr }

/-- STATUS `a` with the bits of `b` set. -/
def Status.or (a b : Status) : Status where
  done := a.done || b.done
  errCmd := a.errCmd || b.errCmd
  errBusy := a.errBusy || b.errBusy
  errAddr := a.errAddr || b.errAddr
  diagUnsup := a.diagUnsup || b.diagUnsup
  diagDim := a.diagDim || b.diagDim

/-- No bit of STATUS. -/
def Status.none : Status := ⟨false, false, false, false, false, false⟩

@[simp] theorem Status.or_none (a : Status) : a.or .none = a := by simp [Status.or, Status.none]

/-- The notices of a command's body: the DIAG bits it sets (41_repack.md R121, R134). -/
def Command.notices (c : Command) (s : State) : Status :=
  match c with
  | .repack o => { Status.none with diagUnsup := !supported o.fmt && noticeDue s, diagDim := dimChanged o s }
  | .adpcmDecode _ => .none
  | .adpcmReset => .none

/-- REPACK_RESULT after a command that left `new` from a state that held `old`: REPACK replaces it, no other command
touches it (41_repack.md R136). -/
def Command.resultAfter (c : Command) (old new : RepackResult) : RepackResult :=
  match c with
  | .repack _ => new
  | .adpcmDecode _ => old
  | .adpcmReset => old

/-- A second operation of the same command has the last word on REPACK_RESULT. -/
@[simp] theorem Command.resultAfter_resultAfter (c : Command) (old mid new : RepackResult) :
    c.resultAfter (c.resultAfter old mid) new = c.resultAfter old new := by cases c <;> rfl

variable (c : Command) (irqEn : Bool) (st : Status) (rr : RepackResult) (s : State)

/-- A command's body adds its notices to STATUS and reads no flag. -/
theorem commandBody_withFlags : commandBody c (s.withFlags irqEn st rr) =
    (commandBody c s).withFlags irqEn (st.or (c.notices s)) (c.resultAfter rr (commandBody c s).repackResult) := by
  cases c with
  | repack o =>
    cases hSup : supported o.fmt <;>
      simp [commandBody, hSup, repackBody_eq, unsupportedNotice, State.withFlags, Status.or, Status.none,
        Command.notices, Command.resultAfter, noticeDue, dimChanged]
  | adpcmDecode o => simp only [Command.notices, Status.or_none]; rfl
  | adpcmReset => simp only [Command.notices, Status.or_none]; rfl

/-- What a faulted command forgets is REPACK_RESULT at most, and does not depend on a flag. -/
theorem forgetReads_withFlags : forgetReads c (s.withFlags irqEn st rr) =
    (forgetReads c s).withFlags irqEn st (c.resultAfter rr (forgetReads c s).repackResult) := by
  cases c with
  | repack o => rfl
  | adpcmDecode o =>
    simp only [forgetReads]
    split <;> rfl
  | adpcmReset => rfl

theorem drawSpans_withFlags (l : List Span) :
    drawSpans l (s.withFlags irqEn st rr) = (drawSpans l s).withFlags irqEn st rr := by
  induction l generalizing s with
  | nil => rfl
  | cons sp l ih => exact ih (drawSpan sp s)

/-- A command that met a fault reads no flag either (notes/assumptions/14.md). -/
theorem faultedBody_withFlags : faultedBody c (commandBody c) (s.withFlags irqEn st rr) =
    (faultedBody c (commandBody c) s).withFlags irqEn (st.or (c.notices s))
      (c.resultAfter rr (faultedBody c (commandBody c) s).repackResult) := by
  simp only [faultedBody, commandBody_withFlags, forgetReads_withFlags, Command.resultAfter_resultAfter,
    drawSpans_withFlags, recordFaults_repackResult, drawSpans_repackResult]
  rfl

/-- A completion sets DONE and nothing else of the flags (40_host_interface.md R108). -/
theorem completeCommand_withFlags : completeCommand (s.withFlags irqEn st rr) =
    (completeCommand s).withFlags irqEn (st.or { Status.none with done := true }) rr := by
  simp [completeCommand, State.withFlags, Status.or, Status.none]

/-- DONE set on top of other bits is one set of bits. -/
theorem Status.or_or_done (a b : Status) :
    (a.or b).or { Status.none with done := true } = a.or { b with done := true } := by
  simp [Status.or, Status.none]

end Sys2Proof.Machine
end

section
/-! SUPPORT. No command's behaviour depends on a flag (10_state.md R46). -/

namespace Sys2Proof.Machine

/-- The engine's step with the flags changed before it: the same next state, but for the flags (10_state.md R46). -/
theorem runCommand_withFlags (c : Command) (s : State) :
    ∃ t set, runCommand c (commandBody c) s = .next t ∧ set.done = (c.overflows || c.admittedBy s.platform) ∧
      ∀ irqEn st rr, runCommand c (commandBody c) (s.withFlags irqEn st rr) = .next (t.withFlags irqEn (st.or set)
        (if c.overflows || !c.admittedBy s.platform then rr else c.resultAfter rr t.repackResult)) := by
  rcases runCommand_cases c (commandBody c) s with ⟨ho, hRun⟩ | ⟨ho, ha, hRun⟩ | ⟨ho, ha, hf, hRun⟩ | ⟨hReady, hRun⟩
  · refine ⟨_, { Status.none with done := true, errAddr := true }, hRun, by simp [ho], fun irqEn st rr => ?_⟩
    rw [runCommand_of_overflows _ ho]
    simp [ho, completeCommand, raiseErrAddr, State.withFlags, Status.or, Status.none]
  · refine ⟨_, .none, hRun, by simp [ho, ha, Status.none], fun irqEn st rr => ?_⟩
    rw [runCommand_of_not_admitted (s := s.withFlags irqEn st rr) _ ho ha]
    simp [ha]
  · refine ⟨_, { c.notices s with done := true }, hRun, by simp [ha], fun irqEn st rr => ?_⟩
    rw [runCommand_of_fault (s := s.withFlags irqEn st rr) _ ho ha hf, faultedBody_withFlags,
      completeCommand_withFlags, Status.or_or_done]
    simp [ho, ha]
  · refine ⟨_, { c.notices s with done := true }, hRun, by simp [hReady.admitted], fun irqEn st rr => ?_⟩
    have hReady' : c.Ready (s.withFlags irqEn st rr) := { hReady with }
    rw [runCommand_ready hReady', commandBody_withFlags, completeCommand_withFlags, Status.or_or_done]
    simp [hReady.inSpace, hReady.admitted]

/-- Settles O37: the instruction in flight is the engine's step, which commutes with a change of the flags. -/
theorem noCommandReadsAFlag : Obligations.NoCommandReadsAFlag := by
  intro s c hBusy
  obtain ⟨t, set, hRun, hDone, hFlags⟩ := runCommand_withFlags c s
  refine ⟨t, set, (exec_commandInstr hBusy).trans hRun, hDone, fun irqEn st rr => ?_⟩
  refine (exec_commandInstr (s := s.withFlags irqEn st rr) hBusy).trans ((hFlags irqEn st rr).trans ?_)
  cases c with
  | repack o => rfl
  | adpcmDecode o => simp only [Command.resultAfter, ite_self]; rfl
  | adpcmReset => simp only [Command.resultAfter, ite_self]; rfl

end Sys2Proof.Machine
end

section
/-! SUPPORT. The invariant of the state (10_state.md R45, 40_host_interface.md R105): the part of it that is about the data
alone, and what each move of an agent does to it. -/

namespace Sys2Proof.Machine

variable {c : Command} {s : State}

/-- The part of the invariant that does not speak of the engine phase: memory and the step indices. -/
structure State.DataInv (s : State) : Prop where
  memWf      : Memory.wf s.mem
  memInSpace : ∀ c ∈ s.mem, c.1 < 2 ^ 64
  idxLeft    : s.chL.idx.toNat ≤ 88
  idxRight   : s.chR.idx.toNat ≤ 88

theorem State.Inv.dataInv (h : s.Inv) : s.DataInv := { h with }

/-- In an IDLE state with no race marked the invariant is the part about the data. -/
theorem State.DataInv.inv_of_idle (h : s.DataInv) (hIdle : s.engine = .idle) (hRaced : s.raced = false) : s.Inv :=
  { h with
    snapFrame := by simp [hIdle]
    snapAudio := by simp [hIdle]
    notDone := by simp [hIdle]
    pending := by simp [hIdle]
    raceFault := by simp [hRaced]
    raceTarget := by simp [hRaced] }

/-- No race is marked while the engine is IDLE (notes/assumptions/14.md). -/
theorem State.Inv.not_raced_of_idle (h : s.Inv) (hIdle : s.engine = .idle) : s.raced = false := by
  by_contra hRaced
  obtain ⟨c, hBusy, -⟩ := h.raceTarget (by simpa using hRaced)
  simp [hIdle] at hBusy

/-- A write set that does not overflow lies in memory or is empty. -/
theorem Command.writeSet_bound (h : c.overflows = false) :
    c.writeSet.len = 0 ∨ c.writeSet.base + c.writeSet.len ≤ 2 ^ 64 := by
  have hWrites := List.any_eq_false.mp h c.writeSet (.head _)
  simp [Span.overflows] at hWrites
  omega

/-- The body of a command whose footprint lies in memory keeps memory and the step indices in form. -/
theorem State.DataInv.commandBody (h : s.DataInv) (ho : c.overflows = false) : (commandBody c s).DataInv := by
  have hBound := Command.writeSet_bound ho
  cases c with
  | repack o =>
    have hWf := wf_packedMemory (chromaOf s.mem o) o h.memWf
    have hIn := bound_packedMemory (chromaOf s.mem o) o h.memInSpace hBound
    simp only [Machine.commandBody, repackBody_eq, unsupportedNotice]
    split <;> exact { h with memWf := hWf, memInSpace := hIn }
  | adpcmDecode o =>
    obtain ⟨hLeft, hRight⟩ :=
      decodeLoop_lanes s.mem o.srcAddr.toNat o.outAddr.toNat ⟨s.chL, s.chR, s.mem⟩ o.srcLen.toNat
    exact {
      memWf := wf_decodeLoop _ _ _ h.memWf _
      memInSpace := bound_decodeLoop _ _ _ h.memInSpace _ (by simp only [Command.writeSet] at hBound; omega)
      idxLeft := (congrArg (·.idx.toNat) hLeft).trans_le (laneAfter_idx_le _ _ _ h.idxLeft _)
      idxRight := (congrArg (·.idx.toNat) hRight).trans_le (laneAfter_idx_le _ _ _ h.idxRight _) }
  | adpcmReset => exact { h with idxLeft := Nat.zero_le _, idxRight := Nat.zero_le _ }

/-- So does what a fault draws in their place (notes/assumptions/14.md). -/
theorem State.DataInv.faultedBody {body : State → State} (h : (body s).DataInv) (ho : c.overflows = false) :
    (faultedBody c body s).DataInv := by
  obtain ⟨m, d, rr, l, r, hState, -, hWf, hIn, hComputed⟩ := faultedBody_spec c body s
  have hIdx : l.idx.toNat ≤ 88 ∧ r.idx.toNat ≤ 88 := by
    have hOld := And.intro h.idxLeft h.idxRight
    cases c with
    | repack o =>
      obtain ⟨rfl, rfl, -⟩ := hComputed
      exact hOld
    | adpcmDecode o =>
      obtain ⟨-, hChannels⟩ := hComputed
      split at hChannels
      · obtain ⟨rfl, rfl⟩ := hChannels
        exact hOld
      · exact hChannels
    | adpcmReset =>
      obtain ⟨-, rfl, rfl⟩ := hComputed
      exact hOld
  rw [hState]
  exact ⟨hWf h.memWf, hIn ho h.memInSpace, hIdx.1, hIdx.2⟩

/-- A completion leaves an IDLE engine, so the data is all the invariant asks (40_host_interface.md R108). -/
theorem State.DataInv.completeCommand (h : s.DataInv) : (completeCommand s).Inv :=
  State.DataInv.inv_of_idle { h with } rfl rfl

/-- ENGINE_COMPLETE keeps the invariant, whatever its outcome. -/
theorem State.Inv.runCommand {t : State} (h : s.Inv) (hRun : runCommand c (commandBody c) s = .next t) : t.Inv := by
  rcases runCommand_cases c (Machine.commandBody c) s with
    ⟨-, hCase⟩ | ⟨-, -, hCase⟩ | ⟨ho, -, -, hCase⟩ | ⟨hReady, hCase⟩ <;> cases hCase.symm.trans hRun
  · exact State.DataInv.completeCommand { h with }
  · exact h
  · exact ((h.dataInv.commandBody ho).faultedBody ho).completeCommand
  · exact (h.dataInv.commandBody hReady.inSpace).completeCommand

/-- A host read of a register keeps the invariant: it synchronises with no command in flight (20_memory.md R71). -/
theorem State.Inv.hostRead (h : s.Inv) (r : Reg) : (hostRead r s).Inv := by
  rcases hostRead_cases r s with ⟨-, -, hRead⟩ | ⟨hIdle, -, hRead⟩ | hRead <;> rw [hRead]
  · exact { h with }
  · rw [busy_eq_false_iff] at hIdle
    exact State.DataInv.inv_of_idle { h with } hIdle (h.not_raced_of_idle hIdle)
  · exact { h with }

/-- A written channel is legalised, so a landed write keeps the step indices in range (10_state.md R41). -/
theorem State.DataInv.writeReg (h : s.DataInv) (r : Reg) (v : Word) : (writeReg r v s).DataInv := by
  cases r
  case chL => exact { h with idxLeft := channelOfWord_idx v }
  case chR => exact { h with idxRight := channelOfWord_idx v }
  all_goals exact { h with }

/-- The snapshot of an accepted command is the operand registers (10_state.md R43, 40_host_interface.md R105). -/
theorem State.Inv.acceptCommand (h : s.Inv) (op : Opcode) : (acceptCommand (snapshot op s) s).Inv where
  memWf := h.memWf
  memInSpace := h.memInSpace
  idxLeft := h.idxLeft
  idxRight := h.idxRight
  snapFrame o hBusy := by cases op <;> simp_all [snapshot]
  snapAudio o hBusy := by cases op <;> simp_all [snapshot]
  notDone _ _ := rfl
  pending c hBusy := by simp_all
  raceFault := nofun
  raceTarget := nofun

/-- A host write of a register keeps the invariant: while BUSY only CTRL and STATUS land (40_host_interface.md R102). -/
theorem State.Inv.hostWrite (h : s.Inv) (r : Reg) (v : Word) : (hostWrite r v s).Inv := by
  rcases hostWrite_cases r v s with ⟨-, hWrite⟩ | ⟨hIdle, -, hWrite⟩ | ⟨hLands, hWrite⟩ <;> rw [hWrite]
  · exact { h with }
  · rw [busy_eq_false_iff] at hIdle
    rcases commandWrite_cases v s with hCmd | ⟨op, hCmd⟩ <;> rw [hCmd]
    · exact State.DataInv.inv_of_idle { h with } hIdle (h.not_raced_of_idle hIdle)
    · exact h.acceptCommand op
  · rcases hLands with hIdle | rfl | rfl
    · rw [busy_eq_false_iff] at hIdle
      obtain ⟨-, hEngine, -, -, -, -, -, -, hRaced, -⟩ := writeReg_keeps r v s
      exact (h.dataInv.writeReg r v).inv_of_idle (hEngine.trans hIdle) (hRaced.trans (h.not_raced_of_idle hIdle))
    · exact { h with }
    · exact { h with notDone := fun c hBusy => by simp [Machine.writeReg, clearStatus, h.notDone c hBusy] }

/-- The bytes a reset draws lie in memory (70_reset_and_hazards.md R222). -/
theorem abortedWrites_bound (s : State) :
    (abortedWrites s).len = 0 ∨ (abortedWrites s).base + (abortedWrites s).len ≤ 2 ^ 64 := by
  unfold abortedWrites
  split
  · exact .inl rfl
  · simp only [Span.inter, memorySpace]
    omega

/-- A reset keeps the invariant: the engine is IDLE and the channels are cleared (70_reset_and_hazards.md R220). -/
theorem State.Inv.assertReset (h : s.Inv) : (assertReset s).Inv :=
  State.DataInv.inv_of_idle
    { memWf := Memory.wf_writeRow h.memWf _ _ _
      memInSpace := Memory.bound_writeRow h.memInSpace (abortedWrites_bound s) _
      idxLeft := Nat.zero_le _
      idxRight := Nat.zero_le _ } rfl rfl

/-- A host write of a byte keeps memory in canonical form and inside the address space (20_memory.md R60). -/
theorem State.Inv.storeByte (h : s.Inv) (a : Word) (b : Byte) : (storeByte a.toNat b s).Inv :=
  { h with
    memWf := Memory.wf_write h.memWf _ _
    memInSpace := Memory.bound_write h.memInSpace a.isLt b }

/-- A race is with the command in flight when that has the byte in its footprint. -/
theorem inFlightTouches_iff (a : Nat) (s : State) :
    inFlightTouches a s = true ↔ ∃ c, s.engine = .busy c ∧ c.touches a = true := by
  unfold inFlightTouches
  split <;> simp [*]

/-- A racing host write records the fault it marks (20_memory.md R69, notes/assumptions/14.md). -/
theorem State.Inv.raceWrite (h : s.Inv) (a : Word) (b : Byte) : (raceWrite a.toNat b s).Inv := by
  rw [raceWrite_eq]
  exact { h with
    memWf := Memory.wf_write h.memWf _ _
    memInSpace := Memory.bound_write h.memInSpace a.isLt _
    raceFault := fun _ => List.mem_cons_self
    raceTarget := fun hRaced => by
      rcases Bool.or_eq_true_iff.mp hRaced with hBefore | hNow
      · exact h.raceTarget hBefore
      · obtain ⟨c, hBusy, hTouches⟩ := (inFlightTouches_iff _ _).mp hNow
        exact ⟨c, hBusy, _, hTouches⟩ }

end Sys2Proof.Machine
end

section
/-! SUPPORT. The invariant holds at reset and is kept by every step (10_state.md R45, 40_host_interface.md R105). -/

namespace Sys2Proof.Machine

/-- Settles O5: the engine is IDLE, memory is empty and both step indices are 0. -/
theorem invariantAtReset : Obligations.InvariantAtReset :=
  State.DataInv.inv_of_idle
    { memWf := Memory.wf_reset, memInSpace := nofun, idxLeft := Nat.zero_le _, idxRight := Nat.zero_le _ } rfl rfl

/-- Settles O6: each of the moves that `step_cases` lists keeps the invariant. -/
theorem everyStepKeepsTheInvariant : Obligations.EveryStepKeepsTheInvariant := by
  intro s t h hStep
  have hMoved : ∀ ag, State.Inv { s with agenda := ag } := fun _ => { h with }
  rcases step_cases hStep with ⟨ag, k, -, rfl⟩ | ⟨ag, k, v, -, rfl⟩ | ⟨rest, -, rfl⟩ | ⟨rest, -, -, rfl⟩ |
    ⟨rest, c, -, hBusy, hExec⟩ | ⟨rest, a, rfl | rfl⟩ | ⟨rest, a, b, rfl | rfl⟩
  · exact (hMoved ag).hostRead _
  · exact (hMoved ag).hostWrite _ v
  · exact (hMoved rest).assertReset
  · exact hMoved rest
  · rw [exec_commandInstr (s := { s with agenda := rest }) hBusy] at hExec
    exact (hMoved rest).runCommand hExec
  · exact { hMoved rest with }
  · exact { hMoved rest with }
  · exact (hMoved rest).storeByte a b
  · exact (hMoved rest).raceWrite a b

end Sys2Proof.Machine
end

section
/-! SUPPORT. What changes a channel (10_state.md R41, 90_conflicts.md C8). -/

namespace Sys2Proof.Machine

/-- Both channels are as they were. -/
def State.SameChannels (s t : State) : Prop := t.chL = s.chL ∧ t.chR = s.chR

/-- A host read of a register changes no channel. -/
theorem hostRead_sameChannels (r : Reg) (s : State) : s.SameChannels (hostRead r s) := by
  rcases hostRead_cases r s with ⟨-, -, hRead⟩ | ⟨-, -, hRead⟩ | hRead <;> rw [hRead] <;> exact ⟨rfl, rfl⟩

/-- A write of CMD changes no channel, accepted or not (40_host_interface.md R103). -/
theorem commandWrite_sameChannels (v : Word) (s : State) : s.SameChannels (commandWrite v s) := by
  rcases commandWrite_cases v s with hCmd | ⟨op, hCmd⟩ <;> rw [hCmd] <;> exact ⟨rfl, rfl⟩

/-- A host write changes a channel only while IDLE, and only the channel of its register (10_state.md R41). -/
theorem hostWrite_channels (r : Reg) (v : Word) (s : State) :
    ((hostWrite r v s).chL ≠ s.chL → s.busy = false ∧ r = .chL) ∧
    ((hostWrite r v s).chR ≠ s.chR → s.busy = false ∧ r = .chR) := by
  rcases hostWrite_cases r v s with ⟨-, hWrite⟩ | ⟨-, -, hWrite⟩ | ⟨hLands, hWrite⟩ <;> rw [hWrite]
  · exact ⟨(absurd rfl ·), (absurd rfl ·)⟩
  · obtain ⟨hLeft, hRight⟩ := commandWrite_sameChannels v s
    exact ⟨(absurd hLeft ·), (absurd hRight ·)⟩
  · refine ⟨fun hNe => ?_, fun hNe => ?_⟩
    · obtain rfl : r = .chL := by_contra fun hr => hNe (writeReg_chL hr)
      exact ⟨by simpa using hLands, rfl⟩
    · obtain rfl : r = .chR := by_contra fun hr => hNe (writeReg_chR hr)
      exact ⟨by simpa using hLands, rfl⟩

/-- No REPACK changes a channel, whatever its outcome (90_conflicts.md C8). -/
theorem runCommand_repack_sameChannels {o : FrameRegs} {s t : State}
    (h : runCommand (.repack o) (commandBody (.repack o)) s = .next t) : s.SameChannels t := by
  have hBody : s.SameChannels (commandBody (.repack o) s) := by
    simp only [commandBody, repackBody_eq, unsupportedNotice]
    split <;> exact ⟨rfl, rfl⟩
  rcases runCommand_cases (.repack o) (commandBody (.repack o)) s with
    ⟨-, hRun⟩ | ⟨-, -, hRun⟩ | ⟨-, -, -, hRun⟩ | ⟨-, hRun⟩ <;> cases hRun.symm.trans h
  · exact ⟨rfl, rfl⟩
  · exact ⟨rfl, rfl⟩
  · obtain ⟨m, d, rr, l, r, hState, -, -, -, rfl, rfl, -⟩ := faultedBody_spec (.repack o) (commandBody (.repack o)) s
    rw [hState]
    exact hBody
  · exact hBody

/-- Slot 21 and no other is CH_L (10_state.md R24). -/
theorem slotReg_eq_chL (k : BitVec 5) : slotReg k = .chL ↔ k = 21#5 := by revert k; decide +kernel

/-- Slot 22 and no other is CH_R (10_state.md R24). -/
theorem slotReg_eq_chR (k : BitVec 5) : slotReg k = .chR ↔ k = 22#5 := by revert k; decide +kernel

/-- A step that changes a channel is a reset, a host write while IDLE, or the engine's turn with a decode or a channel
reset in flight. -/
theorem step_channels {s t : State} (h : step s = .next t) :
    s.SameChannels t ∨ s.agenda.head? = some .reset ∨
    (∃ ag k v, s.hostInstr = some (.mmioWrite k v) ∧ t = hostWrite (slotReg k) v { s with agenda := ag }) ∨
    (s.engineMoves ∧ (s.engine = .busy .adpcmReset ∨ ∃ o, s.engine = .busy (.adpcmDecode o))) := by
  rcases step_cases h with ⟨ag, k, -, rfl⟩ | hWrite | ⟨rest, hReset, -⟩ | ⟨rest, -, -, rfl⟩ |
    ⟨rest, c, hMoves, hBusy, hExec⟩ | ⟨rest, a, rfl | rfl⟩ | ⟨rest, a, b, rfl | rfl⟩
  · exact .inl (hostRead_sameChannels _ { s with agenda := ag })
  · exact .inr (.inr (.inl hWrite))
  · exact .inr (.inl (by rw [hReset]; rfl))
  · exact .inl ⟨rfl, rfl⟩
  · cases c with
    | repack o =>
      rw [exec_commandInstr (s := { s with agenda := rest }) hBusy] at hExec
      exact .inl (runCommand_repack_sameChannels hExec :)
    | adpcmDecode o => exact .inr (.inr (.inr ⟨hMoves, .inr ⟨o, hBusy⟩⟩))
    | adpcmReset => exact .inr (.inr (.inr ⟨hMoves, .inl hBusy⟩))
  · exact .inl ⟨rfl, rfl⟩
  · exact .inl ⟨rfl, rfl⟩
  · exact .inl ⟨rfl, rfl⟩
  · rw [raceWrite_eq]
    exact .inl ⟨rfl, rfl⟩

/-- Settles O56: of the steps `step_channels` lists, a host write changes the channel of its own slot alone. -/
theorem channelStateChangesOnlyAsStated : Obligations.ChannelStateChangesOnlyAsStated := by
  intro s t h
  rcases step_channels h with ⟨hLeft, hRight⟩ | hReset | ⟨ag, k, v, hInstr, rfl⟩ | hEngine
  · exact ⟨(absurd hLeft ·), (absurd hRight ·)⟩
  · exact ⟨fun _ => .inl hReset, fun _ => .inl hReset⟩
  · obtain ⟨hLeft, hRight⟩ := hostWrite_channels (slotReg k) v { s with agenda := ag }
    refine ⟨fun hNe => .inr (.inl ?_), fun hNe => .inr (.inl ?_)⟩
    · obtain ⟨hIdle, hReg⟩ := hLeft hNe
      exact ⟨hIdle, v, by rw [hInstr, (slotReg_eq_chL k).mp hReg]⟩
    · obtain ⟨hIdle, hReg⟩ := hRight hNe
      exact ⟨hIdle, v, by rw [hInstr, (slotReg_eq_chR k).mp hReg]⟩
  · exact ⟨fun _ => .inr (.inr hEngine), fun _ => .inr (.inr hEngine)⟩

end Sys2Proof.Machine
end

section
/-! SUPPORT. The engine's checks before a command runs, failing, as sets (20_memory.md R67, 41_repack.md R124), and a
command stuck by them. -/

namespace Sys2Proof.Machine

variable {c : Command} {s t : State}

/-- A command is not to end with ERR_ADDR when its footprint lies inside memory (41_repack.md R124, 42_adpcm.md R170). -/
theorem Command.overflows_eq_false_iff (c : Command) :
    c.overflows = false ↔ ∀ a, c.InFootprint a → a ≤ 2 ^ 64 - 1 := by
  rw [← Bool.not_eq_true, Command.overflows_iff]
  simp only [not_exists, not_and, not_lt]

/-- A command is stuck by any one address that is not admitted (20_memory.md R67). -/
theorem Command.admittedBy_eq_false_iff (c : Command) (p : Platform) :
    c.admittedBy p = false ↔ ∃ a, c.InFootprint a ∧ p.admits a = false := by
  rw [← Bool.not_eq_true, Command.admittedBy_iff]
  simp

/-- Settles O31: over the sets, the first check passes and the second fails. -/
theorem unadmittedFootprintSticks : Obligations.UnadmittedFootprintSticks := by
  intro s c hBusy hInside hUnadmitted
  have ho : c.overflows = false := (Command.overflows_eq_false_iff c).mpr hInside
  have ha : c.admittedBy s.platform = false := (Command.admittedBy_eq_false_iff c _).mpr hUnadmitted
  rw [exec_commandInstr hBusy, runCommand_of_not_admitted _ ho ha]

/-- The command is in flight and DONE is 0 (10_state.md R27). -/
def Command.Pending (c : Command) (s : State) : Prop := s.engine = .busy c ∧ s.status.done = false

/-- A host read of a register leaves the engine phase (40_host_interface.md R100). -/
@[simp] theorem hostRead_engine (r : Reg) (s : State) : (hostRead r s).engine = s.engine := by
  rcases hostRead_cases r s with ⟨-, -, hRead⟩ | ⟨-, -, hRead⟩ | hRead <;> rw [hRead] <;> rfl

/-- A host write leaves a command in flight pending: while BUSY it is dropped, or lands in CTRL or STATUS, where DONE can
only be cleared (40_host_interface.md R102). -/
theorem Command.Pending.hostWrite (h : c.Pending s) (r : Reg) (v : Word) : c.Pending (hostWrite r v s) := by
  obtain ⟨hEngine, hDone⟩ := h
  have hBusy : s.busy = true := busy_of_command hEngine
  rcases hostWrite_cases r v s with ⟨-, hWrite⟩ | ⟨hIdle, -, -⟩ | ⟨hLands, hWrite⟩
  · rw [hWrite]; exact ⟨hEngine, hDone⟩
  · simp [hBusy] at hIdle
  · rw [hWrite]
    rcases hLands with hIdle | rfl | rfl
    · simp [hBusy] at hIdle
    · exact ⟨hEngine, hDone⟩
    · exact ⟨hEngine, by simp [writeReg, clearStatus, hDone]⟩

/-- Settles O32: of the moves that `step_cases` lists, the engine's own turn answers the same state, and no other move but
a reset ends a command in flight or sets DONE. -/
theorem onlyResetEndsAStuckCommand : Obligations.OnlyResetEndsAStuckCommand := by
  intro s t c hInv hBusy ho ha hNoReset hStep
  have hMoved : ∀ ag, c.Pending { s with agenda := ag } := fun _ => ⟨hBusy, hInv.notDone c hBusy⟩
  change c.Pending t
  rcases step_cases hStep with ⟨ag, k, -, rfl⟩ | ⟨ag, k, v, -, rfl⟩ | ⟨rest, hReset, -⟩ | ⟨rest, -, hIdle, -⟩ |
    ⟨rest, d, -, hBusy', hExec⟩ | ⟨rest, a, rfl | rfl⟩ | ⟨rest, a, b, rfl | rfl⟩
  · rw [Command.Pending, hostRead_engine, hostRead_status]
    exact hMoved ag
  · exact (hMoved ag).hostWrite _ v
  · simp [hReset] at hNoReset
  · simp [hBusy] at hIdle
  · obtain rfl : c = d := by simpa [hBusy] using hBusy'
    rw [exec_commandInstr (s := { s with agenda := rest }) hBusy,
      runCommand_of_not_admitted (s := { s with agenda := rest }) _ ho ha] at hExec
    cases hExec
    exact hMoved rest
  · exact hMoved rest
  · exact hMoved rest
  · exact hMoved rest
  · rw [raceWrite_eq]
    exact hMoved rest

end Sys2Proof.Machine
end

section
/-! SUPPORT. What a command whose footprint is admitted leaves, with a fault or without (40_host_interface.md R108,
20_memory.md R66, R73). -/

namespace Sys2Proof.Machine

variable {c : Command} {s : State}

/-- REPACK's body as one record, for every format (41_repack.md R134, R138). -/
theorem commandBody_repack (o : FrameRegs) (s : State) :
    commandBody (.repack o) s = { s with
      recW := o.width
      recH := o.height
      status := { s.status with
        diagUnsup := s.status.diagUnsup || (!supported o.fmt && noticeDue s)
        diagDim := s.status.diagDim || dimChanged o s }
      dstLen := BitVec.ofNat 64 o.bufLen
      unsupCount := s.unsupCount + (if supported o.fmt then 0#64 else 1#64)
      mem := packedMemory (chromaOf s.mem o) o s.mem
      repackResult := repackResultOf o s.mem } := by
  cases hSup : supported o.fmt <;>
    simp [commandBody, hSup, repackBody_eq, unsupportedNotice, noticeDue]

/-- A command's body writes its write set and no other byte (41_repack.md R137, 42_adpcm.md R163, R166). -/
theorem commandBody_read_outside {a : Nat} (h : ¬ c.WritesAt a) :
    Memory.read (commandBody c s).mem a = Memory.read s.mem a := by
  have hOutside : a < c.writeSet.base ∨ c.writeSet.base + c.writeSet.len ≤ a := by
    rw [Command.writesAt_iff, Span.contains_iff] at h
    omega
  cases c with
  | repack o =>
    rw [commandBody_repack]
    exact packedMemory_outside _ _ _ hOutside
  | adpcmDecode o => exact decodeLoop_outside _ _ _ _ _ hOutside
  | adpcmReset => rfl

/-- The registers a command computes from the bytes it reads, after it ran from `s`, as far as the rules give them without
those bytes: REPACK's two suspicions are free where the plane is probed, the channels of a decode are free, and nothing
else is (41_repack.md R128, R136, 42_adpcm.md R166; notes/assumptions/14.md). -/
def Command.Computes (c : Command) (s : State) (rr : RepackResult) (l r : Channel) : Prop :=
  match c with
  | .repack o => l = s.chL ∧ r = s.chR ∧ ∃ u v, rr = repackResultWith o (o.uProbed && u) (o.vProbed && v)
  | .adpcmDecode _ => rr = s.repackResult
  | .adpcmReset => rr = s.repackResult ∧ l = ⟨0#16, 0#7⟩ ∧ r = ⟨0#16, 0#7⟩

/-- The body of a command computes what the rules say. -/
theorem commandBody_computes (c : Command) (s : State) :
    c.Computes s (commandBody c s).repackResult (commandBody c s).chL (commandBody c s).chR := by
  cases c with
  | repack o =>
    rw [commandBody_repack]
    exact ⟨rfl, rfl, _, _, rfl⟩
  | adpcmDecode o => rfl
  | adpcmReset => exact ⟨rfl, rfl, rfl⟩

/-- A command that is ready meets no fault (60_exceptions.md R202). -/
theorem Command.Ready.faultsOn_eq_nil (h : c.Ready s) : c.faultsOn s.platform = [] := by
  simp [Command.faultsOn, h.idempotent, h.disjoint]

/-- The effect of a command on the state before it completes, when it ends with this memory, draw counter, REPACK_RESULT
and channels: its body's, with the faults whose conditions hold recorded. -/
def Command.effect (c : Command) (s : State) (m : Memory) (d : Nat) (rr : RepackResult) (l r : Channel) : State :=
  { commandBody c s with
    mem := m, draws := d, repackResult := rr, chL := l, chR := r, faults := c.faultsOn s.platform ++ s.faults }

/-- An admitted command runs and completes, with or without a fault: outside the write set and the footprint bytes with read
side effects memory is as it was, and the registers it computes are as the rules give them (20_memory.md R66, R73). -/
theorem runCommand_of_admitted (ho : c.overflows = false) (ha : c.admittedBy s.platform = true) :
    ∃ m d rr l r, runCommand c (commandBody c) s = .next (completeCommand (c.effect s m d rr l r)) ∧
      (∀ a, ¬ c.WritesAt a → ¬ (c.InFootprint a ∧ s.platform.sideEffectAt a = true) →
        Memory.read m a = Memory.read s.mem a) ∧
      c.Computes s rr l r := by
  obtain ⟨-, -, -, -, -, -, -, -, -, -, -, -, hFaults, -⟩ := commandBody_keeps c s
  have hBody := commandBody_computes c s
  rcases runCommand_cases c (commandBody c) s with ⟨ho', -⟩ | ⟨-, ha', -⟩ | ⟨-, -, -, hRun⟩ | ⟨hReady, hRun⟩
  · simp [ho] at ho'
  · simp [ha] at ha'
  · obtain ⟨m, d, rr, l, r, hState, hRead, -, -, hForgot⟩ := faultedBody_spec c (commandBody c) s
    refine ⟨m, d, rr, l, r, by rw [hRun, hState, hFaults]; rfl, fun a hWrites hSide => ?_, ?_⟩
    · rw [← Command.sideEffectSpans_iff] at hSide
      rw [hRead a (by simpa [Command.writesAt_iff] using hWrites) (by simpa [Covers] using hSide),
        commandBody_read_outside hWrites]
    · cases c with
      | repack o =>
        rw [commandBody_repack] at hForgot
        exact hForgot
      | adpcmDecode o => exact hForgot.1
      | adpcmReset => exact hForgot
  · refine ⟨_, (commandBody c s).draws, _, _, _, hRun.trans ?_,
      fun a hWrites _ => commandBody_read_outside hWrites, hBody⟩
    rw [Command.effect, hReady.faultsOn_eq_nil, List.nil_append, ← hFaults]

/-- Settles O34: by `runCommand_of_admitted`, with each register the rules give read off the body's record. -/
theorem admittedCommandRecordsItsFaultsAndCompletes : Obligations.AdmittedCommandRecordsItsFaultsAndCompletes := by
  intro s c hBusy hFootprint
  have ho : c.overflows = false := (Command.overflows_eq_false_iff c).mpr fun a ha => (hFootprint a ha).1
  have ha : c.admittedBy s.platform = true := (Command.admittedBy_iff c _).mpr fun a ha => (hFootprint a ha).2
  obtain ⟨m, d, rr, l, r, hRun, hFrame, hComputes⟩ := runCommand_of_admitted ho ha
  obtain ⟨hOverlap, hNonIdempotent, hNoRace⟩ := c.mem_faultsOn s.platform
  refine ⟨_, _, (exec_commandInstr hBusy).trans hRun, rfl, hOverlap, hNonIdempotent, hNoRace, hFrame,
    ?fields, ?repack, ?others, ?channels⟩
  case fields =>
    cases c with
    | repack o => simp only [Command.effect, commandBody_repack]; rfl
    | adpcmDecode o => rfl
    | adpcmReset => rfl
  case repack =>
    rintro o rfl
    obtain ⟨rfl, rfl, u, v, rfl⟩ := hComputes
    simp only [Command.effect, commandBody_repack]
    refine ⟨rfl, rfl, rfl, rfl, rfl, ?_, ?_, rfl, rfl, rfl, rfl⟩
    · exact fun h => (Bool.and_eq_true_iff.mp h).1
    · exact fun h => (Bool.and_eq_true_iff.mp h).1
  case others =>
    intro hOther
    cases c with
    | repack o => exact absurd rfl (hOther o)
    | adpcmDecode o => exact ⟨rfl, rfl, rfl, rfl, rfl, rfl, hComputes⟩
    | adpcmReset => exact ⟨rfl, rfl, rfl, rfl, rfl, rfl, hComputes.1⟩
  case channels =>
    rintro rfl
    exact hComputes.2

end Sys2Proof.Machine
end

section
/-! SUPPORT. The host's accesses to system memory, over the sets of the commands it has not synchronised with
(20_memory.md R69). -/

namespace Sys2Proof.Machine

variable {s : State} {a : Word} {b : Byte} {rest : List Event}

/-- With a host write of memory at the head of the agenda the step is that write. -/
theorem step_of_memWrite (h : s.agenda = .memWrite a b :: rest) :
    step s = hostMemWrite a b { s with agenda := rest } := by
  simp only [step, h, eventTurn]

/-- With a host read of memory at the head of the agenda the step is that read. -/
theorem step_of_memRead (h : s.agenda = .memRead a :: rest) : step s = hostMemRead a { s with agenda := rest } := by
  simp only [step, h, eventTurn]

/-- The platform answers as plain memory where it admits the address and a read has no side effect (20_memory.md R66,
R67). -/
theorem plainMemory_iff (p : Platform) (a : Nat) :
    plainMemory p a = true ↔ p.admits a = true ∧ p.sideEffectAt a = false := by
  simp [plainMemory]

/-- Whether a host write races, as a set (20_memory.md R69). -/
theorem unsynced_touches_iff (a : Nat) (s : State) :
    (s.unsynced.any fun c => c.touches a) = true ↔ ∃ c ∈ s.unsynced, c.InFootprint a := by
  simp [Command.touches_iff]

/-- A host write of a footprint byte races (20_memory.md R69). -/
theorem hostMemWrite_of_touched (h : ∃ c ∈ s.unsynced, c.InFootprint a.toNat) :
    hostMemWrite a b s = .next (raceWrite a.toNat b s) := by
  rw [hostMemWrite, if_pos ((unsynced_touches_iff _ _).mpr h)]

/-- A host write of plain memory outside every open footprint stores the byte (20_memory.md R60, R61). -/
theorem hostMemWrite_of_untouched (h : ∀ c ∈ s.unsynced, ¬ c.InFootprint a.toNat)
    (hPlain : plainMemory s.platform a.toNat = true) : hostMemWrite a b s = .next (storeByte a.toNat b s) := by
  have hNoRace : ¬ (s.unsynced.any fun c => c.touches a.toNat) = true := by
    rw [unsynced_touches_iff]
    exact fun ⟨c, hc, hFoot⟩ => h c hc hFoot
  rw [hostMemWrite, if_neg hNoRace, hPlain]
  rfl

/-- Settles O60: the step is the store of the byte. -/
theorem hostWriteChangesOneByte : Obligations.HostWriteChangesOneByte := by
  intro s a b rest hAgenda hAdmits hNoSide hUntouched
  have hPlain : plainMemory s.platform a.toNat = true := (plainMemory_iff _ _).mpr ⟨hAdmits, hNoSide⟩
  refine ⟨_, (step_of_memWrite hAgenda).trans (hostMemWrite_of_untouched hUntouched hPlain), rfl, ?_, fun a' hne => ?_⟩
  · rw [storeByte_mem, Memory.read_write, if_pos rfl]
  · rw [storeByte_mem, Memory.read_write, if_neg hne]

/-- A racing host write leaves a draw in place of the host's byte where a command whose window is open writes the byte, or
the platform does not answer as plain memory (20_memory.md R69, notes/assumptions/14.md). -/
theorem raceDraws_iff (a : Nat) (s : State) :
    (outputByte a s || !plainMemory s.platform a) = true ↔
      (∃ c ∈ s.unsynced, c.overflows = false ∧ c.WritesAt a) ∨ s.platform.admits a = false ∨
        s.platform.sideEffectAt a = true := by
  rw [Bool.or_eq_true, outputByte_iff]
  simp [plainMemory]

/-- A racing host write changes its own byte alone. -/
theorem raceWrite_read_ne {a a' : Nat} (h : a' ≠ a) :
    Memory.read (raceWrite a b s).mem a' = Memory.read s.mem a' := by
  rw [raceWrite_eq, Memory.read_write, if_neg h]

/-- The byte after a racing host write that leaves a draw. -/
theorem raceWrite_of_draw {a : Nat} (h : (outputByte a s || !plainMemory s.platform a) = true) :
    Memory.read (raceWrite a b s).mem a = Config.freeByte s.draws ∧ (raceWrite a b s).draws = s.draws + 1 := by
  simp only [raceWrite_eq, Memory.read_write, h, if_true, and_self]

/-- The byte after a racing host write that leaves the host's. -/
theorem raceWrite_of_no_draw {a : Nat} (h : ¬ (outputByte a s || !plainMemory s.platform a) = true) :
    Memory.read (raceWrite a b s).mem a = b ∧ (raceWrite a b s).draws = s.draws := by
  simp only [raceWrite_eq, Memory.read_write, h, if_true, if_false, add_zero, and_self, Bool.false_eq_true]

/-- The race is marked when the byte is in the footprint of the command in flight (notes/assumptions/14.md). -/
theorem raceWrite_raced_iff (a : Nat) (b : Byte) (s : State) :
    (raceWrite a b s).raced = true ↔ s.raced = true ∨ ∃ c, s.engine = .busy c ∧ c.InFootprint a := by
  rw [raceWrite_eq, Bool.or_eq_true, inFlightTouches_iff]
  simp only [Command.touches_iff]

/-- Settles O57: the step is the racing write, which leaves a draw exactly under the conditions of `raceDraws_iff`. -/
theorem hostWriteToAFootprintRaces : Obligations.HostWriteToAFootprintRaces := by
  intro s c a b rest hAgenda hUnsynced hFootprint
  have hDraws := raceDraws_iff a.toNat { s with agenda := rest }
  refine ⟨_, (step_of_memWrite hAgenda).trans (hostMemWrite_of_touched ⟨c, hUnsynced, hFootprint⟩), ?record,
    fun a' hne => raceWrite_read_ne hne, ?stored, fun h => raceWrite_of_draw (hDraws.mpr h),
    raceWrite_raced_iff a.toNat b { s with agenda := rest }⟩
  case record => rw [raceWrite_eq]
  case stored =>
    intro hNoOutput hAdmits hNoSide
    refine raceWrite_of_no_draw (s := { s with agenda := rest }) fun hDraw => ?_
    rcases hDraws.mp hDraw with ⟨c', hc', ho, hWrites⟩ | hUnadmitted | hSide
    · exact (hNoOutput c' hc').elim (by simp [ho]) (absurd hWrites)
    · simp [hAdmits] at hUnadmitted
    · simp [hNoSide] at hSide

/-- A host read of a byte that no command with an open window is to write is no draw (20_memory.md R69). -/
theorem outputByte_eq_false {a : Nat} (h : ∀ c ∈ s.unsynced, c.overflows = true ∨ ¬ c.WritesAt a) :
    outputByte a s = false := by
  rw [← Bool.not_eq_true, outputByte_iff]
  rintro ⟨c, hc, ho, hWrites⟩
  exact (h c hc).elim (by simp [ho]) (absurd hWrites)

/-- Whether a host read that is no draw is answered: by plain memory, or for a source byte wherever the platform admits it
(20_memory.md R69, notes/assumptions/16.md). -/
theorem memoryAnswers_iff (a : Nat) (s : State) :
    (plainMemory s.platform a || (s.platform.admits a && sourceByte a s)) = true ↔
      s.platform.admits a = true ∧ (s.platform.sideEffectAt a = false ∨ ∃ c ∈ s.unsynced, c.ReadsAt a) := by
  rw [Bool.or_eq_true, plainMemory_iff, Bool.and_eq_true, sourceByte_iff, and_or_left]

/-- Settles O58: the two tests of `hostMemRead`, over the sets. -/
theorem hostReadIsADrawOnlyOfOutputs : Obligations.HostReadIsADrawOnlyOfOutputs := by
  intro s a rest hAgenda
  have hAnswers := memoryAnswers_iff a.toNat { s with agenda := rest }
  rw [step_of_memRead hAgenda, hostMemRead]
  refine ⟨fun hOutput => ?draw, fun hNoOutput => ?_⟩
  case draw =>
    rw [if_pos ((outputByte_iff a.toNat { s with agenda := rest }).mpr hOutput)]
    rfl
  have hNoDraw : outputByte a.toNat { s with agenda := rest } = false := outputByte_eq_false hNoOutput
  rw [hNoDraw, if_neg Bool.false_ne_true]
  refine ⟨fun hAdmits hSource => ?value, fun hRefuses => ?refused⟩
  case value =>
    rw [hAnswers.mpr ⟨hAdmits, hSource⟩]
    rfl
  case refused =>
    refine if_pos (Bool.not_eq_true' _ |>.mpr (Bool.eq_false_iff.mpr fun hAnswer => ?_))
    obtain ⟨hAdmits, hSource⟩ := hAnswers.mp hAnswer
    rcases hRefuses with hUnadmitted | ⟨hSide, hNoSource⟩
    · simp [hAdmits] at hUnadmitted
    · rcases hSource with hNoSide | ⟨c, hc, hReads⟩
      · simp [hSide] at hNoSide
      · exact hNoSource c hc hReads

end Sys2Proof.Machine
end

section
/-! SUPPORT. The windows of host duty: which step opens one and which ends them (20_memory.md R69, R71, R75). -/

namespace Sys2Proof.Machine

/-- A host read of a register ends the windows only as a STATUS read of BUSY = 0 (20_memory.md R71). -/
theorem hostRead_unsynced (r : Reg) (s : State) :
    (hostRead r s).unsynced = s.unsynced ∨ (s.busy = false ∧ r = .status ∧ (hostRead r s).unsynced = []) := by
  rcases hostRead_cases r s with ⟨-, -, hRead⟩ | ⟨hIdle, hReg, hRead⟩ | hRead <;> rw [hRead]
  · exact .inl rfl
  · exact .inr ⟨hIdle, hReg, rfl⟩
  · exact .inl rfl

/-- A host write of a register ends no window, and opens one for the command it accepts (40_host_interface.md R103). -/
theorem hostWrite_unsynced (r : Reg) (v : Word) (s : State) :
    (hostWrite r v s).unsynced = s.unsynced ∨
      ∃ c, (hostWrite r v s).engine = .busy c ∧ (hostWrite r v s).unsynced = c :: s.unsynced := by
  rcases hostWrite_cases r v s with ⟨-, hWrite⟩ | ⟨-, -, hWrite⟩ | ⟨-, hWrite⟩ <;> rw [hWrite]
  · exact .inl rfl
  · rcases commandWrite_cases v s with hCmd | ⟨op, hCmd⟩ <;> rw [hCmd]
    · exact .inl rfl
    · exact .inr ⟨_, rfl, rfl⟩
  · obtain ⟨-, -, -, -, hUnsynced, -⟩ := writeReg_keeps r v s
    exact .inl hUnsynced

/-- No command's body touches a window. -/
@[simp] theorem commandBody_unsynced (c : Command) (s : State) : (commandBody c s).unsynced = s.unsynced := by
  obtain ⟨-, -, -, -, -, -, hUnsynced, -⟩ := commandBody_keeps c s
  exact hUnsynced

/-- A fault touches no window (60_exceptions.md R202). -/
@[simp] theorem faultedBody_unsynced (c : Command) (body : State → State) (s : State) :
    (faultedBody c body s).unsynced = (body s).unsynced := by
  obtain ⟨m, d, rr, l, r, hState, -⟩ := faultedBody_spec c body s
  rw [hState]

/-- The engine's step ends no window: the host synchronises, not the engine (20_memory.md R71). -/
theorem runCommand_keeps_unsynced {c : Command} {s t : State} (h : runCommand c (commandBody c) s = .next t) :
    t.unsynced = s.unsynced := by
  rcases runCommand_cases c (commandBody c) s with ⟨-, hRun⟩ | ⟨-, -, hRun⟩ | ⟨-, -, -, hRun⟩ | ⟨-, hRun⟩ <;>
    cases hRun.symm.trans h <;> simp

/-- Settles O59: of the moves that `step_cases` lists, only a host read or write of a register touches the windows. -/
theorem onlyAStatusReadSynchronises : Obligations.OnlyAStatusReadSynchronises := by
  intro s t h
  rcases step_cases h with ⟨ag, k, hInstr, rfl⟩ | ⟨ag, k, v, -, rfl⟩ | ⟨rest, -, rfl⟩ | ⟨rest, -, -, rfl⟩ |
    ⟨rest, c, -, hBusy, hExec⟩ | ⟨rest, a, rfl | rfl⟩ | ⟨rest, a, b, rfl | rfl⟩
  · rcases hostRead_unsynced (slotReg k) { s with agenda := ag } with hSame | ⟨hIdle, hReg, hNone⟩
    · exact .inl hSame
    · obtain rfl := (slotReg_eq_status k).mp hReg
      exact .inr (.inr ⟨hIdle, hInstr, hNone⟩)
  · exact (hostWrite_unsynced (slotReg k) v { s with agenda := ag }).imp_right .inl
  · exact .inl rfl
  · exact .inl rfl
  · rw [exec_commandInstr (s := { s with agenda := rest }) hBusy] at hExec
    exact .inl (runCommand_keeps_unsynced hExec :)
  · exact .inl rfl
  · exact .inl rfl
  · exact .inl rfl
  · rw [raceWrite_eq]
    exact .inl rfl

end Sys2Proof.Machine
end

section
/-! SUPPORT. The three formats and their decoders: the header and the data bytes of a host transaction (30_encoding.md
R91), the CMD word (R80, R81) and FORMAT.FMT (R82). -/

namespace Sys2Proof

/-- Bit fields side by side, as a number: the upper field counts above the lower one's bits. -/
theorem toNat_append_eq_add {m n : Nat} (x : BitVec m) (y : BitVec n) :
    (x ++ y).toNat = 2 ^ n * x.toNat + y.toNat := by
  rw [BitVec.toNat_append, ← Nat.shiftLeft_add_eq_or_of_lt y.isLt, Nat.shiftLeft_eq, Nat.mul_comm]

/-- The word of eight bytes as a number, least significant byte first (30_encoding.md R91). -/
theorem wordOfBytes_toNat (b0 b1 b2 b3 b4 b5 b6 b7 : Byte) :
    (wordOfBytes b0 b1 b2 b3 b4 b5 b6 b7).toNat =
      b0.toNat + 2 ^ 8 * b1.toNat + 2 ^ 16 * b2.toNat + 2 ^ 24 * b3.toNat + 2 ^ 32 * b4.toNat +
        2 ^ 40 * b5.toNat + 2 ^ 48 * b6.toNat + 2 ^ 56 * b7.toNat := by
  simp only [wordOfBytes, toNat_append_eq_add]
  omega

/-- The data bytes of a word, put together again, are the word (30_encoding.md R91). -/
theorem wordOfBytes_extractLsb' (v : Word) :
    wordOfBytes (v.extractLsb' 0 8) (v.extractLsb' 8 8) (v.extractLsb' 16 8) (v.extractLsb' 24 8)
      (v.extractLsb' 32 8) (v.extractLsb' 40 8) (v.extractLsb' 48 8) (v.extractLsb' 56 8) = v := by
  apply BitVec.eq_of_toNat_eq
  simp only [wordOfBytes_toNat, BitVec.extractLsb'_toNat, Nat.shiftRight_eq_div_pow]
  omega

/-- The byte at bit `k` of a word, as arithmetic. -/
theorem extractLsb'_eq_byte_iff (v : Word) (k : Nat) (b : Byte) :
    v.extractLsb' k 8 = b ↔ v.toNat / 2 ^ k % 2 ^ 8 = b.toNat := by
  rw [← BitVec.toNat_inj, BitVec.extractLsb'_toNat, Nat.shiftRight_eq_div_pow]

/-- The data bytes of the word of eight bytes are those bytes (30_encoding.md R91). -/
theorem bytesOfWord_wordOfBytes (b0 b1 b2 b3 b4 b5 b6 b7 : Byte) :
    bytesOfWord (wordOfBytes b0 b1 b2 b3 b4 b5 b6 b7) = [b0, b1, b2, b3, b4, b5, b6, b7] := by
  simp only [bytesOfWord, List.cons.injEq, extractLsb'_eq_byte_iff, wordOfBytes_toNat, and_true]
  refine ⟨?_, ?_, ?_, ?_, ?_, ?_, ?_, ?_⟩ <;> omega

/-- The fields of a read header (30_encoding.md R91). -/
theorem readHeader_fields : ∀ slot : BitVec 5, (slot.setWidth 8 : Byte).extractLsb' 5 2 = 0#2 ∧
    (slot.setWidth 8 : Byte).getLsbD 7 = false ∧ (slot.setWidth 8 : Byte).extractLsb' 0 5 = slot := by
  decide +kernel

/-- The fields of a write header (30_encoding.md R91). -/
theorem writeHeader_fields : ∀ slot : BitVec 5, (0x80#8 ||| slot.setWidth 8).extractLsb' 5 2 = 0#2 ∧
    (0x80#8 ||| slot.setWidth 8).getLsbD 7 = true ∧ (0x80#8 ||| slot.setWidth 8).extractLsb' 0 5 = slot := by
  decide +kernel

/-- A header is its direction and its slot when bits [6:5] are 0: no other bit is left (30_encoding.md R91). -/
theorem header_eq : ∀ h : Byte, h.extractLsb' 5 2 = 0#2 →
    h = if h.getLsbD 7 then 0x80#8 ||| (h.extractLsb' 0 5).setWidth 8 else (h.extractLsb' 0 5).setWidth 8 := by
  decide +kernel

/-- A read header stands for a read of its slot, whatever follows it (30_encoding.md R91). -/
theorem decodeHostBus_readHeader (slot : BitVec 5) (rest : List Byte) :
    decodeHostBus (slot.setWidth 8 :: rest) = .ok (.mmioRead slot) rest := by
  obtain ⟨hZero, hDir, hSlot⟩ := readHeader_fields slot
  simp only [decodeHostBus, hZero, hDir, hSlot]
  rfl

/-- A write header and eight data bytes stand for the write of their word (30_encoding.md R91). -/
theorem decodeHostBus_writeHeader (slot : BitVec 5) (v : Word) (rest : List Byte) :
    decodeHostBus ((0x80#8 ||| slot.setWidth 8) :: (bytesOfWord v ++ rest)) = .ok (.mmioWrite slot v) rest := by
  obtain ⟨hZero, hDir, hSlot⟩ := writeHeader_fields slot
  simp only [decodeHostBus, hZero, hDir, hSlot, bytesOfWord, List.cons_append, List.nil_append,
    wordOfBytes_extractLsb']
  rfl

/-- Bytes that decode to a host transaction begin with its encoding, and what follows it is left (30_encoding.md
R91). -/
theorem encode_of_decodeHostBus {bytes tail : List Byte} {i : Instr} (h : decodeHostBus bytes = .ok i tail) :
    ∃ form, encode i = .hostBus form ∧ bytes = form ++ tail := by
  unfold decodeHostBus at h
  split at h
  · cases h
  · rename_i header rest
    split at h
    · cases h
    · rename_i hZero
      have hHeader := header_eq header (not_not.mp hZero)
      split at h
      · rename_i hWrite
        rw [if_pos hWrite] at hHeader
        split at h
        · cases h
          exact ⟨_, rfl, by rw [bytesOfWord_wordOfBytes, ← hHeader]; rfl⟩
        · cases h
      · rename_i hRead
        rw [if_neg hRead] at hHeader
        cases h
        exact ⟨_, rfl, by rw [← hHeader]; rfl⟩

/-- The encoding of a host transaction decodes to it, and what follows is left (30_encoding.md R91). -/
theorem decodeHostBus_of_encode {i : Instr} {form : List Byte} (h : encode i = .hostBus form) (tail : List Byte) :
    decodeHostBus (form ++ tail) = .ok i tail := by
  cases i with
  | mmioRead slot => cases h; exact decodeHostBus_readHeader slot tail
  | mmioWrite slot v => cases h; exact decodeHostBus_writeHeader slot v tail
  | _ => cases h

/-- A host transaction on its own decodes to its instruction (30_encoding.md R91). -/
theorem decode_of_hostBus {i : Instr} {form : List Byte} (h : encode i = .hostBus form) :
    decode (.hostBus form) = .ok i [] := by
  have hDecode : decodeHostBus form = .ok i [] := by simpa using decodeHostBus_of_encode h []
  simp only [decode, hDecode]

/-- With the OPCODE of REPACK, FMT selects the form (30_encoding.md R82). -/
theorem decodeCmdFormat_repack (fmt : Byte) : decodeCmdFormat 0x01#64 fmt = repackForm fmt := rfl

/-- A CMD word whose OPCODE is illegal stands for it (30_encoding.md R81). -/
theorem decodeCmd_of_illegal {op : Byte} (h : legalOpcode op = none) :
    decodeCmd (op.setWidth 64) = .illegalOpcode op := by
  have hOp : opcodeField (op.setWidth 64) = op := by simp [opcodeField]
  simp only [decodeCmd, hOp, h]

/-- CMD words with the same OPCODE decode alike (30_encoding.md R80). -/
theorem decodeCmd_congr {v w : Word} (h : opcodeField v = opcodeField w) : decodeCmd v = decodeCmd w := by
  simp only [decodeCmd, h]

/-- Words that agree in bits [7:0] have the same OPCODE (30_encoding.md R80). -/
theorem opcodeField_congr {v w : Word} (h : ∀ i, i < 8 → v.getLsbD i = w.getLsbD i) :
    opcodeField v = opcodeField w := by
  refine BitVec.eq_of_getLsbD_eq fun i hi => ?_
  simp [opcodeField, hi, h i hi]

/-- The class of an FMT value, as the table of 30_encoding.md R82 lists them. -/
theorem fmtClass_eq_ite (f : Byte) : fmtClass f = if f.toNat ≤ 1 then .p420 else if f.toNat ≤ 3 then .p422
    else if f.toNat = 4 then .nvU else if f.toNat = 5 then .nvV else .other := by
  rcases Machine.fmtClass_inv f with ⟨hClass, rfl | rfl⟩ | ⟨hClass, rfl | rfl⟩ | ⟨hClass, rfl⟩ | ⟨hClass, rfl⟩ |
    ⟨hClass, hOther⟩
  case inr.inr.inr.inr =>
    rw [hClass, if_neg (by omega), if_neg (by omega), if_neg (by omega), if_neg (by omega)]
  all_goals rfl

/-- The FMT values from 6 on select REPACK.OTHER (30_encoding.md R82). -/
theorem repackForm_of_other {fmt : Byte} (h : 6 ≤ fmt.toNat) : repackForm fmt = .repackOther fmt := by
  have hClass : fmtClass fmt = .other := by
    rw [fmtClass_eq_ite, if_neg (by omega), if_neg (by omega), if_neg (by omega), if_neg (by omega)]
  exact Machine.repackForm_of_not_supported (by simp [Machine.supported, hClass])

end Sys2Proof
end

section
/-! SUPPORT. Decode and encode agree (30_encoding.md R80 to R91). -/

namespace Sys2Proof

/-- Settles O8: a host transaction by `decodeHostBus_of_encode`, a CMD word by its OPCODE and a form of REPACK by its
FMT. -/
theorem decodeOfEncode : Obligations.DecodeOfEncode := by
  intro i hWf
  cases i with
  | mmioRead slot => exact decode_of_hostBus rfl
  | mmioWrite slot v => exact decode_of_hostBus rfl
  | repack => rfl
  | repackP420 fullRange => cases fullRange <;> rfl
  | repackP422 fullRange => cases fullRange <;> rfl
  | repackNvU => rfl
  | repackNvV => rfl
  | repackOther fmt =>
    have hForm : repackForm fmt = .repackOther fmt := repackForm_of_other (of_decide_eq_true hWf)
    simp only [encode, decode, decodeCmdFormat_repack, hForm]
  | adpcmDecode => rfl
  | adpcmReset => rfl
  | illegalOpcode op =>
    have hIllegal : legalOpcode op = none := (Machine.legalOpcode_eq_none_iff op).mpr (of_decide_eq_true hWf)
    simp only [encode, decode, decodeCmd_of_illegal hIllegal]

/-- Settles O9: the bytes are the encoding and the rest, and nothing is left. -/
theorem encodeOfDecodedTransaction : Obligations.EncodeOfDecodedTransaction := by
  intro bytes i h
  obtain ⟨form, hForm, rfl⟩ := encode_of_decodeHostBus h
  rw [hForm, List.append_nil]

/-- Settles O10: decoding a CMD word goes through its OPCODE, and the classes are the table's. -/
theorem commandWordDecodesByOpcodeAlone : Obligations.CommandWordDecodesByOpcodeAlone :=
  ⟨fun _ _ h => decodeCmd_congr (opcodeField_congr h), fmtClass_eq_ite⟩

/-- Settles O11: the transactions are the encodings of their instructions, and the CMD words have OPCODE 7 and 3. -/
theorem workedEncodingsDecode : Obligations.WorkedEncodingsDecode :=
  ⟨decode_of_hostBus (i := .mmioWrite 3 1) (by decide), decode_of_hostBus (i := .mmioRead 2) (by decide),
    decode_of_hostBus (i := .mmioWrite 10 0xFFFFFFFF00000040) (by decide), by decide, by decide⟩

end Sys2Proof
end

section
/-! SUPPORT. Register words as sums of their fields (10_state.md R24 to R41, 30_encoding.md R85). -/

namespace Sys2Proof.Machine

/-- STATUS as the sum of its bits (10_state.md R27). -/
theorem statusWord_toNat (s : State) :
    (statusWord s).toNat = s.busy.toNat + 2 * s.status.done.toNat + 4 * s.status.errCmd.toNat +
      8 * s.status.errBusy.toNat + 16 * s.status.errAddr.toNat + 32 * s.status.diagUnsup.toNat +
      64 * s.status.diagDim.toNat := by
  rw [statusWord, BitVec.toNat_setWidth_of_le (by decide)]
  simp only [toNat_append_eq_add, BitVec.toNat_ofBool]
  omega

/-- REPACK_RESULT as the sum of its bits (10_state.md R34). -/
theorem RepackResult.word_toNat (r : RepackResult) :
    r.word.toNat = r.uMissing.toNat + 2 * r.vMissing.toNat + 4 * r.uSuspect.toNat + 8 * r.vSuspect.toNat +
      16 * r.chromaFilled.toNat + 32 * r.lumaAbsent.toNat + 64 * r.oddDim.toNat + 128 * r.unsupported.toNat := by
  rw [RepackResult.word, BitVec.toNat_setWidth_of_le (by decide)]
  simp only [toNat_append_eq_add, BitVec.toNat_ofBool]
  omega

/-- A channel's word is IDX above PRED (30_encoding.md R85). -/
theorem Channel.word_toNat (c : Channel) : c.word.toNat = c.pred.toNat + 2 ^ 16 * c.idx.toNat := by
  rw [Channel.word, BitVec.toNat_setWidth_of_le (by decide), toNat_append_eq_add, Nat.add_comm]

/-- REC_DIM is H above W (10_state.md R36). -/
theorem regWord_recDim_toNat (s : State) : (regWord .recDim s).toNat = s.recW.toNat + 2 ^ 16 * s.recH.toNat := by
  rw [regWord, BitVec.toNat_setWidth_of_le (by decide), toNat_append_eq_add, Nat.add_comm]

/-- Settles O19: a register of one field holds it at bit 0, and the others are the sums above. -/
theorem registerMapHoldsTheFields : Obligations.RegisterMapHoldsTheFields := by
  intro s
  have field : ∀ {n : Nat} (x : BitVec n), n ≤ 64 → (x.setWidth 64 : Word).toNat = x.toNat :=
    fun _ => BitVec.toNat_setWidth_of_le
  have irqEn : (regWord .ctrl s).toNat = s.irqEn.toNat := by
    rw [regWord, BitVec.toNat_setWidth_of_le (by decide), BitVec.toNat_ofBool]
  have reserved : ∀ k : BitVec 5, 23 ≤ k.toNat → (regWord (slotReg k) s).toNat = 0 := fun k hk => by
    rw [slotReg_of_reserved k hk]; rfl
  exact ⟨rfl, irqEn, statusWord_toNat s, rfl, field s.frame.width (by decide), field s.frame.height (by decide),
    field s.frame.fmt (by decide), rfl, field s.frame.p0Stride (by decide), rfl, field s.frame.p1Stride (by decide),
    rfl, field s.frame.p2Stride (by decide), rfl, s.repackResult.word_toNat, rfl, regWord_recDim_toNat s, rfl,
    rfl, field s.audio.srcLen (by decide), rfl, s.chL.word_toNat, s.chR.word_toNat, reserved⟩

end Sys2Proof.Machine
end

section
/-! SUPPORT. A host transaction as the next step (30_encoding.md R91). -/

namespace Sys2Proof.Machine

/-- What is left of a byte string of transactions moves next, if anything is left. -/
theorem pushTransactions_eq_ite (bytes : List Byte) (agenda : List Event) :
    pushTransactions bytes agenda = if bytes = [] then agenda else .transactions bytes :: agenda := by
  cases bytes <;> rfl

/-- With host bytes at the head of the agenda the step runs the transaction they begin with. -/
theorem step_of_transactions {s : State} {bytes tail : List Byte} {rest : List Event} {i : Instr}
    (h : s.agenda = .transactions bytes :: rest) (hDecode : decodeHostBus bytes = .ok i tail) :
    step s = exec i { s with agenda := pushTransactions tail rest } := by
  simp only [step, h, eventTurn, transactionTurn, hDecode]

/-- Settles O12: the rest of the bytes stays at the head of the agenda. -/
theorem stepRunsTheDecodedTransaction : Obligations.StepRunsTheDecodedTransaction := by
  intro s bytes tail rest i h hDecode
  rw [step_of_transactions h hDecode, pushTransactions_eq_ite]

end Sys2Proof.Machine
end

section
/-! SUPPORT. The sample format: the binary32 word of a predictor and the number it stands for (30_encoding.md R88). -/

namespace Sys2Proof.Machine

/-- The three fields of a binary32 word side by side, as a number (30_encoding.md R88). -/
theorem binary32_toNat {sign e frac : Nat} (hs : sign < 2) (he : e < 2 ^ 8) (hf : frac < 2 ^ 23) :
    (BitVec.ofNat 32 ((sign <<< 31) ||| (e <<< 23) ||| frac)).toNat = 2 ^ 31 * sign + 2 ^ 23 * e + frac := by
  have hExp : e <<< 23 + frac < 2 ^ 31 := by omega
  rw [Nat.or_assoc, ← Nat.shiftLeft_add_eq_or_of_lt hf, ← Nat.shiftLeft_add_eq_or_of_lt hExp, BitVec.toNat_ofNat]
  omega

/-- A normal binary32 word stands for ±(1 + frac / 2^23) * 2^(e - 127) (30_encoding.md R88). -/
theorem binary32Value_of_fields {sign e frac : Nat} (hs : sign < 2) (hPos : 0 < e) (he : e < 2 ^ 8)
    (hf : frac < 2 ^ 23) :
    binary32Value (BitVec.ofNat 32 ((sign <<< 31) ||| (e <<< 23) ||| frac)) =
      (if sign = 1 then -1 else 1) * (1 + (frac : ℚ) / 2 ^ 23) * 2 ^ ((e : ℤ) - 127) := by
  generalize hw : BitVec.ofNat 32 ((sign <<< 31) ||| (e <<< 23) ||| frac) = w
  have hNat : w.toNat = 2 ^ 31 * sign + 2 ^ 23 * e + frac := hw ▸ binary32_toNat hs he hf
  have hZero : w ≠ 0#32 := fun h => by rw [h, BitVec.toNat_zero] at hNat; omega
  have hSign : w.getLsbD 31 = true ↔ sign = 1 := by
    rw [BitVec.getLsbD, Nat.testBit_eq_decide_div_mod_eq, decide_eq_true_iff]
    omega
  have hExp : (w.extractLsb' 23 8).toNat = e := by
    rw [BitVec.extractLsb'_toNat, Nat.shiftRight_eq_div_pow]; omega
  have hFrac : (w.extractLsb' 0 23).toNat = frac := by
    rw [BitVec.extractLsb'_toNat, Nat.shiftRight_zero]; omega
  simp only [binary32Value, if_neg hZero, hSign, hExp, hFrac]

/-- The bits below the leading one, moved up to bit 22, fit the fraction (30_encoding.md R88). -/
theorem f32_fraction_lt {n e : Nat} (hHigh : n < 2 ^ (e + 1)) (he : e ≤ 23) : (n - 2 ^ e) <<< (23 - e) < 2 ^ 23 := by
  have hBelow : n - 2 ^ e < 2 ^ e := by rw [pow_succ] at hHigh; omega
  calc (n - 2 ^ e) <<< (23 - e) = (n - 2 ^ e) * 2 ^ (23 - e) := Nat.shiftLeft_eq _ _
    _ < 2 ^ e * 2 ^ (23 - e) := Nat.mul_lt_mul_of_pos_right hBelow (by positivity)
    _ = 2 ^ 23 := by rw [← pow_add, Nat.add_sub_cancel' he]

/-- The leading bit, the fraction and the exponent of F32 make up the magnitude exactly (30_encoding.md R88). -/
theorem f32_magnitude_eq {n e : Nat} (hLow : 2 ^ e ≤ n) (he : e ≤ 23) :
    (1 + (((n - 2 ^ e) <<< (23 - e) : ℕ) : ℚ) / 2 ^ 23) * 2 ^ (((e + 112 : ℕ) : ℤ) - 127) = (n : ℚ) / 32768 := by
  have hPow : (2 : ℚ) ^ 23 = 2 ^ (23 - e) * 2 ^ e := by rw [← pow_add, Nat.sub_add_cancel he]
  have hScale : (2 : ℚ) ^ (((e + 112 : ℕ) : ℤ) - 127) = 2 ^ e / 32768 := by
    rw [show ((e + 112 : ℕ) : ℤ) - 127 = (e : ℤ) - 15 by omega, zpow_sub₀ two_ne_zero, zpow_natCast]
    norm_num
  rw [hScale, hPow, Nat.shiftLeft_eq, Nat.cast_mul, Nat.cast_sub hLow, Nat.cast_pow, Nat.cast_pow, Nat.cast_ofNat]
  field_simp
  ring

/-- F32 of a predictor stands for predictor / 32768 (30_encoding.md R88). -/
theorem binary32Value_f32 {p : Int} (hLow : -32768 ≤ p) (hHigh : p ≤ 32767) :
    binary32Value (f32 p) = (p : ℚ) / 32768 := by
  rcases eq_or_ne p 0 with rfl | hp
  · simp [f32, binary32Value]
  · have hAbs : p.natAbs ≠ 0 := by omega
    have hExp : p.natAbs.log2 < 16 := (Nat.log2_lt hAbs).mpr (by omega)
    have hFrac : (p.natAbs - 2 ^ p.natAbs.log2) <<< (23 - p.natAbs.log2) < 2 ^ 23 :=
      f32_fraction_lt Nat.lt_log2_self (by omega)
    have hAbsCast : ((p.natAbs : ℕ) : ℚ) = |(p : ℚ)| := by rw [Nat.cast_natAbs, Int.cast_abs]
    rw [f32, if_neg hp, binary32Value_of_fields (by split <;> decide) (by omega) (by omega) hFrac, mul_assoc,
      f32_magnitude_eq (Nat.log2_self_le hAbs) (by omega), hAbsCast]
    rcases lt_or_gt_of_ne hp with hNeg | hPos
    · rw [if_pos hNeg, if_pos rfl, abs_of_neg (by exact_mod_cast hNeg)]
      ring
    · rw [if_neg hPos.not_gt, if_neg (by decide), abs_of_pos (by exact_mod_cast hPos), one_mul]

/-- Settles O54: the value of F32, and the range of the predictor scaled. -/
theorem sampleIsThePredictorExactly : Obligations.SampleIsThePredictorExactly := by
  intro p hLow hHigh
  have hLow' : (-32768 : ℚ) ≤ p := by exact_mod_cast hLow
  have hHigh' : (p : ℚ) ≤ 32767 := by exact_mod_cast hHigh
  rw [binary32Value_f32 hLow hHigh]
  refine ⟨rfl, fun h => if_pos h, ?_, ?_⟩ <;> linarith

end Sys2Proof.Machine
end

section
/-! SUPPORT. The samples ADPCM_DECODE writes (30_encoding.md R87). -/

namespace Sys2Proof.Machine

/-- Settles O50: the decoding loop's pairs, and its frame. -/
theorem decodeWritesTheSamplePairs : Obligations.DecodeWritesTheSamplePairs := by
  intro s o hBusy hReady
  have hRun : exec .adpcmDecode s = .next (completeCommand (decodeBody o s)) :=
    (exec_commandInstr hBusy).trans (runCommand_ready hReady _)
  exact ⟨_, hRun, fun j i hj hi => decodeLoop_pair s.mem _ _ ⟨s.chL, s.chR, s.mem⟩ hj hi,
    fun a ha => decodeLoop_outside s.mem _ _ ⟨s.chL, s.chR, s.mem⟩ _ ha⟩

end Sys2Proof.Machine
end

section
/-! SUPPORT. MMIO_READ and MMIO_WRITE as instructions: what the host reads, drops, stores and commands
(40_host_interface.md R100 to R103). -/

namespace Sys2Proof.Machine

variable {r : Reg} {k : BitVec 5} {v : Word} {s : State}

/-- MMIO_READ is a host read of the slot's register, and always answers (40_host_interface.md R100). -/
theorem exec_mmioRead (k : BitVec 5) (s : State) : exec (.mmioRead k) s = .next (hostRead (slotReg k) s) := rfl

/-- MMIO_WRITE is a host write of the slot's register, and always answers (40_host_interface.md R101). -/
theorem exec_mmioWrite (k : BitVec 5) (v : Word) (s : State) :
    exec (.mmioWrite k v) s = .next (hostWrite (slotReg k) v s) := rfl

/-- A read that is no draw sets the data the host has read, and ends the window of host duty as a STATUS read of BUSY = 0
(40_host_interface.md R100, 20_memory.md R71). -/
theorem hostRead_of_no_draw (h : s.busy = false ∨ (r ≠ .chL ∧ r ≠ .chR)) :
    hostRead r s = { s with
      readData := regWord r s
      unsynced := if r = .status ∧ s.busy = false then [] else s.unsynced } := by
  cases hBusy : s.busy with
  | true =>
    have hNoDraw : ¬ (r = .chL ∨ r = .chR) := by simpa [hBusy] using h
    simp [hostRead, returnWord, hBusy, hNoDraw]
  | false =>
    by_cases hStatus : r = .status
    · simp [hostRead, returnWord, synchronise, hBusy, hStatus]
    · simp [hostRead, returnWord, hBusy, hStatus]

/-- While BUSY a write of any register but CTRL and STATUS is dropped (40_host_interface.md R102). -/
theorem hostWrite_of_busy (h : s.busy = true) (hCtrl : r ≠ .ctrl) (hStatus : r ≠ .status) :
    hostWrite r v s = raiseErrBusy s := by
  simp [hostWrite, h, hCtrl, hStatus]

/-- While IDLE, MMIO_WRITE of any slot but CMD lands (40_host_interface.md R101). -/
theorem exec_mmioWrite_of_idle (h : s.busy = false) (hCmd : k ≠ 3#5) :
    exec (.mmioWrite k v) s = .next (writeReg (slotReg k) v s) := by
  rw [exec_mmioWrite, hostWrite_of_idle h (mt (slotReg_eq_cmd k).mp hCmd)]

/-- While IDLE, MMIO_WRITE of CMD is COMMAND_WRITE (40_host_interface.md R103). -/
theorem exec_mmioWrite_cmd_of_idle (h : s.busy = false) : exec (.mmioWrite 3#5 v) s = .next (commandWrite v s) :=
  congrArg Host.Outcome.next (hostWrite_cmd_of_idle h)

/-- MMIO_WRITE of any slot but CMD is dropped while BUSY or lands; CTRL and STATUS always land (40_host_interface.md R101,
R102). -/
theorem exec_mmioWrite_cases (v : Word) (s : State) (hCmd : k ≠ 3#5) :
    (s.busy = true ∧ k ≠ 1#5 ∧ k ≠ 2#5 ∧ exec (.mmioWrite k v) s = .next (raiseErrBusy s)) ∨
    ((s.busy = false ∨ k = 1#5 ∨ k = 2#5) ∧ exec (.mmioWrite k v) s = .next (writeReg (slotReg k) v s)) := by
  by_cases hCtrl : k = 1#5
  · exact .inr ⟨.inr (.inl hCtrl), by subst hCtrl; exact congrArg Host.Outcome.next hostWrite_ctrl⟩
  by_cases hStatus : k = 2#5
  · exact .inr ⟨.inr (.inr hStatus), by subst hStatus; exact congrArg Host.Outcome.next hostWrite_status⟩
  cases hBusy : s.busy with
  | true =>
    refine .inl ⟨rfl, hCtrl, hStatus, ?_⟩
    rw [exec_mmioWrite, hostWrite_of_busy hBusy (mt (slotReg_eq_ctrl k).mp hCtrl) (mt (slotReg_eq_status k).mp hStatus)]
  | false => exact .inr ⟨.inl rfl, exec_mmioWrite_of_idle hBusy hCmd⟩

/-- ERR_BUSY shows in STATUS alone (40_host_interface.md R102). -/
theorem regWord_raiseErrBusy_ne (h : r ≠ .status) : regWord r (raiseErrBusy s) = regWord r s := by
  cases r <;> first | exact absurd rfl h | rfl

/-- A landed write leaves what every other slot reads, a reserved one included (40_host_interface.md R101, 10_state.md
R42). -/
theorem regWord_slotReg_writeReg_ne {j : BitVec 5} (h : j ≠ k) :
    regWord (slotReg j) (writeReg (slotReg k) v s) = regWord (slotReg j) s := by
  by_cases hReg : slotReg j = slotReg k
  · rw [(slotReg_inj j k hReg).resolve_left h]
    rfl
  · exact regWord_writeReg_ne v s hReg

/-- OPCODE from the low byte's number (30_encoding.md R80). -/
theorem opcodeField_eq_ofNat {n : Nat} (h : v.toNat % 256 = n) : opcodeField v = BitVec.ofNat 8 n := by
  apply BitVec.eq_of_toNat_eq
  rw [opcodeField_toNat, BitVec.toNat_ofNat]
  omega

/-- A CMD write of a legal opcode is accepted with the snapshot of that opcode (40_host_interface.md R103). -/
theorem commandWrite_of_opcode {n : Nat} {op : Opcode} (hOp : v.toNat % 256 = n)
    (hLegal : legalOpcode (BitVec.ofNat 8 n) = some op) : commandWrite v s = acceptCommand (snapshot op s) s := by
  simp [commandWrite, opcodeField_eq_ofNat hOp, hLegal]

/-- Settles O16: the read is no draw, and slot 2 alone is STATUS. -/
theorem readReturnsTheRegister : Obligations.ReadReturnsTheRegister := by
  intro s k hNoDraw
  have hReg : s.busy = false ∨ (slotReg k ≠ .chL ∧ slotReg k ≠ .chR) := by
    rwa [Ne, slotReg_eq_chL, Ne, slotReg_eq_chR]
  simp only [exec_mmioRead, hostRead_of_no_draw hReg, slotReg_eq_status]

/-- Settles O20: the write is dropped, or lands in CTRL or STATUS. -/
theorem writeWhileBusyIsDropped : Obligations.WriteWhileBusyIsDropped := by
  intro s k v hBusy
  obtain ⟨hStatusLands, hCtrlLands⟩ := statusIsWriteOneToClearAndControlIsWritable
  refine ⟨fun hCtrl hStatus => ?_, ?_, ?_⟩
  · rw [exec_mmioWrite, hostWrite_of_busy hBusy (mt (slotReg_eq_ctrl k).mp hCtrl) (mt (slotReg_eq_status k).mp hStatus)]
    rfl
  · rintro rfl
    exact hCtrlLands s v
  · rintro rfl
    exact hStatusLands s v

/-- Settles O21: while IDLE each write lands, and the field stores the value cut to its width. -/
theorem operandWritesStoreTheirField : Obligations.OperandWritesStoreTheirField := by
  intro s v hIdle
  have lands : ∀ {k : BitVec 5}, k ≠ 3#5 → exec (.mmioWrite k v) s = .next (writeReg (slotReg k) v s) :=
    exec_mmioWrite_of_idle hIdle
  have cut : ∀ n, (v.setWidth n).toNat = v.toNat % 2 ^ n := fun n => BitVec.toNat_setWidth n v
  exact ⟨⟨_, lands (k := 4) (by decide), cut 16⟩, ⟨_, lands (k := 5) (by decide), cut 16⟩,
    ⟨_, lands (k := 6) (by decide), cut 8⟩,
    lands (k := 7) (by decide), ⟨_, lands (k := 8) (by decide), cut 32⟩,
    lands (k := 9) (by decide), ⟨_, lands (k := 10) (by decide), cut 32⟩,
    lands (k := 11) (by decide), ⟨_, lands (k := 12) (by decide), cut 32⟩,
    lands (k := 13) (by decide), lands (k := 18) (by decide),
    ⟨_, lands (k := 19) (by decide), cut 32⟩, lands (k := 20) (by decide)⟩

/-- Settles O22: a dropped write changes ERR_BUSY alone, and a landed one its own slot alone. -/
theorem writeLeavesOtherRegisters : Obligations.WriteLeavesOtherRegisters := by
  intro s k v hCmd
  rcases exec_mmioWrite_cases v s hCmd with ⟨hBusy, hCtrl, -, hDropped⟩ | ⟨hLands, hLanded⟩
  · refine ⟨_, hDropped, fun j _ hj => regWord_raiseErrBusy_ne (mt (slotReg_eq_status j).mp hj), fun _ => ?_,
      rfl, rfl, rfl, rfl, rfl, rfl, rfl, rfl, rfl⟩
    simp [hBusy, hCtrl]
  · obtain ⟨hMem, hEngine, hPlatform, hAgenda, hUnsynced, hReadData, hDraws, hFaults, hRaced, hStatus⟩ :=
      writeReg_keeps (slotReg k) v s
    refine ⟨_, hLanded, fun j hj _ => regWord_slotReg_writeReg_ne hj, fun hk => ?_,
      hMem, hEngine, hPlatform, hFaults, hRaced, hUnsynced, hAgenda, hReadData, hDraws⟩
    have hNotDropped : (s.busy && k != 1#5) = false := by
      rcases hLands with hIdle | rfl | rfl
      · rw [hIdle, Bool.false_and]
      · exact Bool.and_false _
      · exact absurd rfl hk
    rw [hStatus (mt (slotReg_eq_status k).mp hk), hNotDropped, Bool.or_false]

/-- Settles O26: OPCODE decides, and a legal one names the command whose operands are copied. -/
theorem commandWriteAcceptsOrRejects : Obligations.CommandWriteAcceptsOrRejects := by
  intro s v hIdle
  refine ⟨fun c hLegal => ?accepted, fun hIllegal => ⟨?rejected, ?table⟩⟩
  case accepted =>
    rw [exec_mmioWrite_cmd_of_idle hIdle]
    rcases hLegal with ⟨hOp, rfl⟩ | ⟨hOp, rfl⟩ | ⟨hOp, rfl⟩
    · exact congrArg Host.Outcome.next (commandWrite_of_opcode (op := .repack) hOp rfl)
    · exact congrArg Host.Outcome.next (commandWrite_of_opcode (op := .adpcmDecode) hOp rfl)
    · exact congrArg Host.Outcome.next (commandWrite_of_opcode (op := .adpcmReset) hOp rfl)
  case rejected =>
    rw [exec_mmioWrite_cmd_of_idle hIdle, commandWrite_of_illegal hIllegal]
    rfl
  case table =>
    have hNone : legalOpcode (v.setWidth 8) = none := (legalOpcode_eq_none_iff _).mpr (by simpa using hIllegal)
    simp [exec, execIllegalOpcode, hNone, hIdle, raiseErrCmd]

end Sys2Proof.Machine
end

section
/-! SUPPORT. Host bus accesses to the register window (40_host_interface.md R106, 10_state.md R23). -/

namespace Sys2Proof.Machine

variable {p : Platform} {a : BusAccess}

/-- The access is one of a slot: 64 bits wide, at REG_BASE plus the slot's offset (40_host_interface.md R106). -/
def BusAccess.OnSlot (a : BusAccess) (p : Platform) (k : BitVec 5) : Prop :=
  a.bytes = 8 ∧ a.addr.toNat = p.regBase.toNat + 8 * k.toNat

/-- An access of a slot is the transaction on it (40_host_interface.md R106). -/
theorem accessMeaning_of_onSlot {k : BitVec 5} (h : a.OnSlot p k) :
    accessMeaning p a = .instr (if a.write then .mmioWrite k a.data else .mmioRead k) := by
  obtain ⟨hBytes, hAddr⟩ := h
  have hOffset : a.offset p = 8 * (k.toNat : Int) := by
    unfold BusAccess.offset
    omega
  have hSlot : BitVec.ofNat 5 ((a.offset p).toNat / 8) = k := by
    rw [hOffset, show (8 * (k.toNat : Int)).toNat / 8 = k.toNat by omega, BitVec.ofNat_toNat, BitVec.setWidth_eq]
  have hWindow : ¬ (a.offset p < 0 ∨ 0x100 ≤ a.offset p) := by
    have := k.isLt
    omega
  have hAligned : ¬ a.offset p % 8 ≠ 0 := by omega
  rw [accessMeaning, if_neg (not_not.mpr hBytes), if_neg hWindow, if_neg hAligned, hSlot]
  cases a.write <;> rfl

/-- An access at an offset in the window that is a multiple of 8, 64 bits wide, is one of a slot (10_state.md R23). -/
theorem BusAccess.onSlot_of_aligned (hBytes : a.bytes = 8) (hWindow : ¬ (a.offset p < 0 ∨ 0x100 ≤ a.offset p))
    (hAligned : a.offset p % 8 = 0) : ∃ k, a.OnSlot p k := by
  refine ⟨BitVec.ofNat 5 ((a.offset p).toNat / 8), hBytes, ?_⟩
  rw [BitVec.toNat_ofNat]
  unfold BusAccess.offset at *
  omega

/-- An access of no slot is refused, under a name whose condition holds (40_host_interface.md R106). -/
theorem accessMeaning_of_no_slot (h : ¬ ∃ k, a.OnSlot p k) : ∃ r, accessMeaning p a = .refused r ∧
    ((r = .accessWidth (a.offset p) a.bytes ∧ a.bytes ≠ 8) ∨
     (r = .accessOutsideWindow (a.offset p) ∧ (a.offset p < 0 ∨ 0x100 ≤ a.offset p)) ∨
     (r = .accessMisaligned (a.offset p) ∧ a.offset p % 8 ≠ 0)) := by
  by_cases hBytes : a.bytes ≠ 8
  · exact ⟨_, by rw [accessMeaning, if_pos hBytes], .inl ⟨rfl, hBytes⟩⟩
  by_cases hWindow : a.offset p < 0 ∨ 0x100 ≤ a.offset p
  · exact ⟨_, by rw [accessMeaning, if_neg hBytes, if_pos hWindow], .inr (.inl ⟨rfl, hWindow⟩)⟩
  by_cases hAligned : a.offset p % 8 ≠ 0
  · exact ⟨_, by rw [accessMeaning, if_neg hBytes, if_neg hWindow, if_pos hAligned], .inr (.inr ⟨rfl, hAligned⟩)⟩
  · exact absurd (BusAccess.onSlot_of_aligned (not_not.mp hBytes) hWindow (not_not.mp hAligned)) h

/-- With a bus access at the head of the agenda the step is that access. -/
theorem step_of_access {s : State} {rest : List Event} (h : s.agenda = .access a :: rest) :
    step s = accessTurn a { s with agenda := rest } := by
  simp only [step, h, eventTurn]

/-- Settles O15: by whether the access is one of a slot. -/
theorem onlyAlignedWordAccessesReachTheWindow : Obligations.OnlyAlignedWordAccessesReachTheWindow := by
  intro s a rest h
  rw [step_of_access h, accessTurn]
  refine ⟨fun k hBytes hAddr => ?_, fun hNoSlot => ?_⟩
  · have hSlot : a.OnSlot s.platform k := ⟨hBytes, hAddr⟩
    simp only [accessMeaning_of_onSlot hSlot]
  · obtain ⟨r, hRefused, hName⟩ := accessMeaning_of_no_slot hNoSlot
    exact ⟨r, by simp only [hRefused], hName⟩

end Sys2Proof.Machine
end

section
/-! SUPPORT. The engine's turn as a step, and the refusal of an engine instruction that is not in flight
(40_host_interface.md R108). -/

namespace Sys2Proof.Machine

variable {s : State} {c : Command} {rest : List Event}

/-- With no input left the step is the engine's turn (notes/assumptions/3.md). -/
theorem step_of_no_input (h : s.agenda = []) : step s = engineTurn s := by
  simp only [step, h]

/-- When the engine's turn comes, from the agenda or because it is empty, the step is that turn (notes/assumptions/3.md). -/
theorem step_of_engine_turn (h : s.agenda = .engine :: rest ∨ (s.agenda = [] ∧ rest = [])) :
    step s = engineTurn { s with agenda := rest } := by
  rcases h with hEngine | ⟨hEmpty, rfl⟩
  · simp only [step, hEngine, eventTurn]
  · rw [step_of_no_input hEmpty, ← hEmpty]

/-- An idle engine's turn changes nothing (40_host_interface.md R108). -/
theorem engineTurn_of_idle (h : s.engine = .idle) : engineTurn s = .next s := by
  simp only [engineTurn, h]

/-- A busy engine's turn runs the command in flight (40_host_interface.md R108). -/
theorem engineTurn_of_busy (h : s.engine = .busy c) : engineTurn s = exec (commandInstr c) s := by
  simp only [engineTurn, h]

/-- Settles O13: the step is the engine's turn, by the engine phase. -/
theorem stepRunsTheCommandInFlight : Obligations.StepRunsTheCommandInFlight := by
  intro s rest hTurn
  have runs : ∀ {c : Command}, s.engine = .busy c →
      engineTurn { s with agenda := rest } = exec (commandInstr c) { s with agenda := rest } :=
    fun hBusy => engineTurn_of_busy (s := { s with agenda := rest }) hBusy
  rw [step_of_engine_turn hTurn]
  exact ⟨engineTurn_of_idle (s := { s with agenda := rest }), fun _ => runs, fun _ => runs, runs⟩

/-- STATUS bit 0 is BUSY (10_state.md R27). -/
theorem regWord_status_busy (s : State) : (regWord .status s).getLsbD 0 = s.busy := by
  simp only [regWord, statusWord, BitVec.getLsbD_setWidth, BitVec.getLsbD_append]
  simp

/-- STATUS bit 1 is DONE (10_state.md R27). -/
theorem regWord_status_done (s : State) : (regWord .status s).getLsbD 1 = s.status.done := by
  simp only [regWord, statusWord, BitVec.getLsbD_setWidth, BitVec.getLsbD_append]
  simp

/-- Settles O36: the step runs the command's body and completes it. -/
theorem readyCommandCompletesWhenTheHostIsQuiet : Obligations.ReadyCommandCompletesWhenTheHostIsQuiet := by
  intro s c hQuiet hBusy hReady
  have hStep : step s = .next (completeCommand (commandBody c s)) := by
    rw [step_of_no_input hQuiet, engineTurn_of_busy hBusy, exec_commandInstr hBusy, runCommand_ready hReady]
  exact ⟨_, hStep, rfl, regWord_status_busy _, regWord_status_done _⟩

/-- A form of REPACK that is not in flight is refused (40_host_interface.md R108). -/
theorem withRepackInFlight_refused {f : Byte} (h : ∀ o, s.engine = .busy (.repack o) → o.fmt ≠ f)
    (run : FrameRegs → Host.Outcome State Fault Refusal) : withRepackInFlight f s run = .refused .notEnabled := by
  unfold withRepackInFlight
  split
  · rename_i o hBusy
    exact if_neg (h o hBusy)
  · rfl

/-- The form that an FMT selects is refused unless a REPACK of that FMT is in flight (40_host_interface.md R108,
30_encoding.md R82). -/
theorem exec_repackForm_refused {f : Byte} (h : ∀ o, s.engine = .busy (.repack o) → o.fmt ≠ f) :
    exec (repackForm f) s = .refused .notEnabled := by
  rcases fmtClass_inv f with ⟨-, rfl | rfl⟩ | ⟨-, rfl | rfl⟩ | ⟨-, rfl⟩ | ⟨-, rfl⟩ | ⟨hOther, -⟩
  case inr.inr.inr.inr =>
    have hSup : supported f = false := by simp [supported, hOther]
    rw [repackForm_of_not_supported hSup, exec, execRepackOther, hSup]
    exact withRepackInFlight_refused h _
  all_goals exact withRepackInFlight_refused h _

/-- The formats 0 to 5 are the supported ones (30_encoding.md R83). -/
theorem supported_iff (f : Byte) : supported f = true ↔ f.toNat ≤ 5 := by
  revert f; decide +kernel

/-- The OPCODE values 1 to 3 are the legal ones (30_encoding.md R81). -/
theorem legalOpcode_isSome_iff (op : Byte) : (legalOpcode op).isSome = true ↔ 1 ≤ op.toNat ∧ op.toNat ≤ 3 := by
  revert op; decide +kernel

/-- Settles O14: by the instruction. -/
theorem commandNotInFlightIsRefused : Obligations.CommandNotInFlightIsRefused := by
  rintro s i (⟨rfl, h⟩ | ⟨f, rfl, h⟩ | ⟨f, rfl, hf⟩ | ⟨rfl, h⟩ | ⟨rfl, h⟩ | ⟨op, rfl, hLow, hHigh⟩)
  · rw [exec, execRepack]
    split
    · exact absurd ‹_› (h _)
    · rfl
  · exact exec_repackForm_refused h
  · simp only [exec, execRepackOther, (supported_iff f).mpr hf, if_true]
  · rw [exec, execAdpcmDecode]
    split
    · exact absurd ‹_› (h _)
    · rfl
  · rw [exec, execAdpcmReset]
    split
    · exact absurd ‹_› h
    · rfl
  · simp only [exec, execIllegalOpcode, (legalOpcode_isSome_iff op).mpr ⟨hLow, hHigh⟩, if_true]

end Sys2Proof.Machine
end

section
/-! SUPPORT. The engine's checks passing and failing, over the footprint as a set (20_memory.md R66, R67, R69, R73,
41_repack.md R124, 42_adpcm.md R170). -/

namespace Sys2Proof.Machine

/-- Settles O30: over the set, the first check of the engine's step fails. -/
theorem footprintOverflowEndsWithErrAddr : Obligations.FootprintOverflowEndsWithErrAddr := by
  intro s c hBusy hOverflow
  rw [exec_commandInstr hBusy, runCommand_of_overflows _ ((Command.overflows_iff c).mpr hOverflow)]
  rfl

/-- A footprint reaches no memory with read side effects when none of its addresses does (20_memory.md R66). -/
theorem Command.touchesSideEffects_eq_false_iff (c : Command) (p : Platform) :
    c.touchesSideEffects p = false ↔ ∀ a, c.InFootprint a → p.sideEffectAt a = false := by
  rw [← Bool.not_eq_true, Command.touchesSideEffects_iff]
  simp

/-- The write set does not meet the read set when no address is in both (20_memory.md R73). -/
theorem Command.overlaps_eq_false_iff (c : Command) :
    c.overlaps = false ↔ ∀ a, ¬ (c.WritesAt a ∧ c.ReadsAt a) := by
  rw [← Bool.not_eq_true, Command.overlaps_iff, not_exists]

/-- The conditions of Ready, each over the sets of the rules. -/
theorem Command.ready_iff (c : Command) (s : State) : c.Ready s ↔
    (∀ a, c.InFootprint a → a ≤ 2 ^ 64 - 1) ∧ (∀ a, c.InFootprint a → s.platform.admits a = true) ∧
    (∀ a, c.InFootprint a → s.platform.sideEffectAt a = false) ∧
    (∀ a, ¬ (c.WritesAt a ∧ c.ReadsAt a)) ∧ s.raced = false := by
  rw [← Command.overflows_eq_false_iff, ← Command.admittedBy_iff, ← Command.touchesSideEffects_eq_false_iff,
    ← Command.overlaps_eq_false_iff]
  constructor
  · rintro ⟨hInSpace, hAdmitted, hIdempotent, hDisjoint, hUnraced⟩
    exact ⟨hInSpace, hAdmitted, hIdempotent, hDisjoint, hUnraced⟩
  · rintro ⟨hInSpace, hAdmitted, hIdempotent, hDisjoint, hUnraced⟩
    exact ⟨hInSpace, hAdmitted, hIdempotent, hDisjoint, hUnraced⟩

/-- Settles O35: the three conditions on a footprint address are asked together. -/
theorem readyIsWhatTheRulesAsk : Obligations.ReadyIsWhatTheRulesAsk := by
  intro c s
  rw [Command.ready_iff]
  simp only [imp_and, forall_and, and_assoc]

end Sys2Proof.Machine
end

section
/-! SUPPORT. The flags of REPACK as the rules spell them, over FMT and the plane pointers (41_repack.md R123, R126 to
R129). -/

namespace Sys2Proof.Machine

variable (o : FrameRegs) (m : Memory)

/-- FMT 4 and 5 are the semiplanar formats (30_encoding.md R83). -/
theorem semiplanar_eq_false_iff (f : Byte) : semiplanar f = false ↔ f ≠ 4#8 ∧ f ≠ 5#8 := by
  revert f; decide +kernel

/-- The formats from 6 on are not supported (30_encoding.md R83). -/
theorem supported_eq_false_iff (f : Byte) : supported f = false ↔ 6 ≤ f.toNat := by
  rw [← Bool.not_eq_true, supported_iff]
  omega

theorem FrameRegs.uMissing_iff : o.uMissing = true ↔ o.p1Addr = 0#64 := by
  simp [FrameRegs.uMissing]

theorem FrameRegs.vMissing_iff : o.vMissing = true ↔ o.p2Addr = 0#64 ∧ o.fmt ≠ 4#8 ∧ o.fmt ≠ 5#8 := by
  simp [FrameRegs.vMissing, semiplanar_eq_false_iff]

theorem probeZero_iff (base : Nat) :
    probeZero m o base = true ↔ ∀ off ∈ o.probes, Memory.read m (base + off) = 0#8 := by
  simp [probeZero]

theorem FrameRegs.uSuspect_iff : o.uSuspect m = true ↔
    0 < o.uvSize ∧ o.p1Addr ≠ 0#64 ∧ ∀ off ∈ o.probes, Memory.read m (o.p1Addr.toNat + off) = 0#8 := by
  rw [FrameRegs.uSuspect, Bool.and_eq_true, probeZero_iff]
  simp [FrameRegs.uProbed, FrameRegs.uMissing, and_assoc]

theorem FrameRegs.vSuspect_iff : o.vSuspect m = true ↔
    0 < o.uvSize ∧ o.fmt ≠ 4#8 ∧ o.fmt ≠ 5#8 ∧ o.p2Addr ≠ 0#64 ∧
      ∀ off ∈ o.probes, Memory.read m (o.p2Addr.toNat + off) = 0#8 := by
  have hProbed : o.vProbed = true ↔ 0 < o.uvSize ∧ semiplanar o.fmt = false ∧ o.p2Addr ≠ 0#64 := by
    simp +contextual [FrameRegs.vProbed, FrameRegs.vMissing, and_assoc]
  rw [FrameRegs.vSuspect, Bool.and_eq_true, probeZero_iff, hProbed, semiplanar_eq_false_iff]
  simp only [and_assoc]

/-- The fill decision over FMT and the plane pointers (41_repack.md R129). -/
theorem FrameRegs.fill_iff : o.fill m = true ↔
    o.p1Addr = 0#64 ∨ (o.p2Addr = 0#64 ∧ o.fmt ≠ 4#8 ∧ o.fmt ≠ 5#8) ∨
      o.uSuspect m = true ∨ o.vSuspect m = true ∨ 6 ≤ o.fmt.toNat := by
  simp only [FrameRegs.fill_eq, Bool.or_eq_true, Bool.not_eq_true', FrameRegs.uMissing_iff, FrameRegs.vMissing_iff,
    supported_eq_false_iff, or_assoc]

/-- A frame that is not filled has the planes its format needs (41_repack.md R126, R129). -/
theorem FrameRegs.planes_of_not_filled {o : FrameRegs} {m : Memory} (h : o.fill m = false) :
    o.p1Addr ≠ 0#64 ∧ (semiplanar o.fmt = false → o.p2Addr ≠ 0#64) ∧ supported o.fmt = true := by
  simp only [FrameRegs.fill_eq, Bool.or_eq_false_iff, Bool.not_eq_false'] at h
  obtain ⟨⟨⟨⟨hU, hV⟩, -⟩, -⟩, hSup⟩ := h
  refine ⟨fun h0 => ?_, fun hPlanar h0 => ?_, hSup⟩
  · simp [FrameRegs.uMissing, h0] at hU
  · simp [FrameRegs.vMissing, h0, hPlanar] at hV

/-- ODD_DIM as the parity of the dimensions (41_repack.md R123). -/
theorem FrameRegs.oddDim_iff : o.oddDim = true ↔ o.width.toNat % 2 = 1 ∨ o.height.toNat % 2 = 1 := by
  simp [FrameRegs.oddDim, BitVec.getLsbD, Nat.testBit_zero]

/-- Settles O41: the sizes and the probe offsets are those of `FrameRegs`. -/
theorem suspectMeansSixZeroProbes : Obligations.SuspectMeansSixZeroProbes :=
  fun o m => ⟨o.uSuspect_iff m, o.vSuspect_iff m⟩

/-- A flag is the decision of what it says. -/
theorem eq_decide_of_iff {b : Bool} {p : Prop} [Decidable p] (h : b = true ↔ p) : b = decide p := by
  rw [Bool.eq_iff_iff, decide_eq_true_iff, h]

/-- REPACK_RESULT over FMT, the dimensions and the plane pointers, but for the two suspicions (41_repack.md R136). -/
theorem repackResultOf_eq_decide : repackResultOf o m =
    { uMissing := decide (o.p1Addr = 0#64)
      vMissing := decide (o.p2Addr = 0#64 ∧ o.fmt ≠ 4#8 ∧ o.fmt ≠ 5#8)
      uSuspect := o.uSuspect m
      vSuspect := o.vSuspect m
      chromaFilled := decide (o.p1Addr = 0#64 ∨ (o.p2Addr = 0#64 ∧ o.fmt ≠ 4#8 ∧ o.fmt ≠ 5#8) ∨
        o.uSuspect m = true ∨ o.vSuspect m = true ∨ 6 ≤ o.fmt.toNat)
      lumaAbsent := decide (o.p0Addr = 0#64)
      oddDim := decide (o.width.toNat % 2 = 1 ∨ o.height.toNat % 2 = 1)
      unsupported := decide (6 ≤ o.fmt.toNat) } := by
  have hUnsupported : (!supported o.fmt) = true ↔ 6 ≤ o.fmt.toNat := by
    rw [Bool.not_eq_true', supported_eq_false_iff]
  rw [repackResultOf_eq, RepackResult.mk.injEq]
  exact ⟨rfl, eq_decide_of_iff o.vMissing_iff, rfl, rfl, eq_decide_of_iff (o.fill_iff m), rfl,
    eq_decide_of_iff o.oddDim_iff, eq_decide_of_iff hUnsupported⟩

end Sys2Proof.Machine
end

section
/-! SUPPORT. What a ready REPACK leaves, in every format and under either of its names (41_repack.md R121 to R138). -/

namespace Sys2Proof.Machine

variable {s : State} {o : FrameRegs} {i : Instr}

/-- Settles O38, by `exec_repackForm`. -/
theorem repackIsTheFormOfItsFormat : Obligations.RepackIsTheFormOfItsFormat :=
  fun _ _ hBusy => (exec_repackForm hBusy).symm

/-- A ready REPACK completes, with every register it writes and the packed buffer (41_repack.md R121 to R138). -/
theorem exec_repack_of_ready (hBusy : s.engine = .busy (.repack o)) (hReady : (Command.repack o).Ready s)
    (hName : i = .repack ∨ i = repackForm o.fmt) : exec i s = .next { s with
      engine := .idle
      status := { s.status with
        done := true
        diagUnsup := s.status.diagUnsup || (!supported o.fmt && noticeDue s)
        diagDim := s.status.diagDim || dimChanged o s }
      recW := o.width
      recH := o.height
      dstLen := BitVec.ofNat 64 o.bufLen
      unsupCount := s.unsupCount + (if supported o.fmt then 0#64 else 1#64)
      repackResult := repackResultOf o s.mem
      mem := packedMemory (chromaOf s.mem o) o s.mem } := by
  have hExec : exec i s = exec .repack s := by
    rcases hName with rfl | rfl
    · rfl
    · exact exec_repackForm hBusy
  have hUnraced : (commandBody (.repack o) s).raced = false := by
    rw [commandBody_repack]
    exact hReady.unraced
  rw [hExec]
  change exec (commandInstr (.repack o)) s = _
  rw [exec_commandInstr hBusy, runCommand_ready hReady, completeCommand_unraced hUnraced, commandBody_repack]

/-- Settles O39: the record of `exec_repack_of_ready`, where the format is supported. -/
theorem supportedRepackWritesItsRegisters : Obligations.SupportedRepackWritesItsRegisters := by
  intro s o i hBusy hReady hFmt hName
  have hSup : supported o.fmt = true := (supported_iff _).mpr hFmt
  have hNotOther : ¬ 6 ≤ o.fmt.toNat := by omega
  refine ⟨packedMemory (chromaOf s.mem o) o s.mem, ?_⟩
  rw [exec_repack_of_ready hBusy hReady hName, repackResultOf_eq_decide]
  simp only [hSup, hNotOther, Bool.not_true, Bool.false_and, Bool.or_false, if_true, BitVec.add_zero, or_false,
    decide_false]
  rfl

/-- Settles O40: the record of `exec_repack_of_ready`, where the format is OTHER, so that the chroma is filled. -/
theorem otherRepackCountsAndNotifies : Obligations.OtherRepackCountsAndNotifies := by
  intro s o i hBusy hReady hFmt hName
  have hSup : supported o.fmt = false := (supported_eq_false_iff _).mpr hFmt
  have hFill : o.fill s.mem = true := (o.fill_iff s.mem).mpr (by simp only [hFmt, or_true])
  have hPlanar : o.fmt ≠ 4#8 ∧ o.fmt ≠ 5#8 := by
    constructor <;> rintro h <;> simp [h] at hFmt
  have hCount : s.unsupCount + 1#64 = BitVec.ofNat 64 (s.unsupCount.toNat + 1) := by
    rw [BitVec.ofNat_add, BitVec.ofNat_toNat, BitVec.setWidth_eq]
  rw [← repackForm_of_other hFmt] at hName
  refine ⟨packedMemory (chromaOf s.mem o) o s.mem, fun k hk => packedMemory_fill_at _ _ _ hFill hk,
    fun r c hr hc => packedMemory_luma_at _ _ _ hr hc, ?_⟩
  rw [exec_repack_of_ready hBusy hReady hName, repackResultOf_eq_decide]
  simp only [hSup, hFmt, hPlanar, hCount, Bool.not_false, Bool.true_and, Bool.false_eq_true, if_false, or_true,
    and_true, decide_true, ne_eq, not_false_eq_true]
  rfl

/-- Settles O42: the luma region of the packed buffer, and LUMA_ABSENT as the record gives it. -/
theorem repackCopiesLuma : Obligations.RepackCopiesLuma := by
  intro s o i hBusy hReady hName
  exact ⟨_, exec_repack_of_ready hBusy hReady hName, decide_eq_true_iff,
    fun r c hr hc => packedMemory_luma_at _ _ _ hr hc⟩

/-- Settles O43: CHROMA_FILLED is the fill decision. -/
theorem repackFillsDegradedChroma : Obligations.RepackFillsDegradedChroma := by
  intro s o i hBusy hReady hName
  exact ⟨_, exec_repack_of_ready hBusy hReady hName, o.fill_iff s.mem,
    fun hFill k hk => packedMemory_fill_at _ _ _ hFill hk⟩

/-- Without the fill, both chroma regions hold the samples of the format's source (41_repack.md R130 to R133). -/
theorem exec_repack_copies_chroma {src : ChromaSource} (hBusy : s.engine = .busy (.repack o))
    (hReady : (Command.repack o).Ready s) (hFill : o.fill s.mem = false) (hName : i = repackForm o.fmt)
    (hSrc : chromaOf s.mem o = src) :
    ∃ t, exec i s = .next t ∧ ∀ r c, r < o.uvHeight → c < o.uvWidth →
      Memory.read t.mem (o.dstAddr.toNat + o.ySize + r * o.uvWidth + c) = src.u r c ∧
      Memory.read t.mem (o.dstAddr.toNat + o.ySize + o.uvSize + r * o.uvWidth + c) = src.v r c := by
  subst hSrc
  exact ⟨_, exec_repack_of_ready hBusy hReady (.inr hName), fun r c hr hc =>
    ⟨packedMemory_u_at _ _ _ hFill hr hc, packedMemory_v_at _ _ _ hFill hr hc⟩⟩

/-- Settles O44: both range tags of a planar format have one class, and its source is the two planes. -/
theorem planarFormsCopyTheirPlanes : Obligations.PlanarFormsCopyTheirPlanes := by
  intro s o fullRange hBusy hReady hFill
  refine ⟨fun hFmt => ?p420, fun hFmt => ?p422⟩
  case p420 =>
    have hName : .repackP420 fullRange = repackForm o.fmt := by rw [hFmt]; cases fullRange <;> rfl
    have hSrc : chromaOf s.mem o = chromaP420 s.mem o := by
      rw [chromaOf, hFmt]; cases fullRange <;> rfl
    exact exec_repack_copies_chroma hBusy hReady hFill hName hSrc
  case p422 =>
    have hName : .repackP422 fullRange = repackForm o.fmt := by rw [hFmt]; cases fullRange <;> rfl
    have hSrc : chromaOf s.mem o = chromaP422 s.mem o := by
      rw [chromaOf, hFmt]; cases fullRange <;> rfl
    exact exec_repack_copies_chroma hBusy hReady hFill hName hSrc

/-- Settles O45: the source of a semiplanar format is the shared plane, U first or V first. -/
theorem semiplanarFormsDeinterleave : Obligations.SemiplanarFormsDeinterleave := by
  intro s o hBusy hReady hFill
  refine ⟨fun hFmt => ?nvU, fun hFmt => ?nvV⟩
  case nvU =>
    have hSrc : chromaOf s.mem o = chromaNvU s.mem o := by rw [chromaOf, hFmt]; rfl
    exact exec_repack_copies_chroma hBusy hReady hFill (congrArg repackForm hFmt).symm hSrc
  case nvV =>
    have hSrc : chromaOf s.mem o = chromaNvV s.mem o := by rw [chromaOf, hFmt]; rfl
    obtain ⟨t, hExec, hChroma⟩ := exec_repack_copies_chroma hBusy hReady hFill (congrArg repackForm hFmt).symm hSrc
    exact ⟨t, hExec, fun r c hr hc => (hChroma r c hr hc).symm⟩

/-- Settles O46: the record of `exec_repack_of_ready` names no other field, and the packed buffer has its frame. -/
theorem repackWritesOnlyItsBuffer : Obligations.RepackWritesOnlyItsBuffer := by
  intro s o i hBusy hReady hName
  refine ⟨_, exec_repack_of_ready hBusy hReady hName, fun a ha => packedMemory_outside _ _ _ ha,
    rfl, rfl, rfl, rfl, rfl, rfl, rfl, rfl, rfl, fun hSup => ?_, rfl, rfl, rfl⟩
  simp [hSup]

end Sys2Proof.Machine
end

section
/-! SUPPORT. REPACK is a function of its snapshot and of the bytes of RD (41_repack.md R139). -/

namespace Sys2Proof.Machine

/-- A place in a region of rows, as the products of 41_repack.md R122 count them, has a row and a column. -/
theorem exists_row_col {k rows cols : Nat} (h : k < cols * rows) :
    ∃ r c, r < rows ∧ c < cols ∧ k = r * cols + c :=
  ⟨k / cols, k % cols, Nat.div_lt_of_lt_mul h, Nat.mod_lt k (Nat.pos_of_lt_mul_right h),
    (Nat.div_add_mod' k cols).symm⟩

/-- The two memories agree at every byte of RD (41_repack.md R124). -/
def FrameRegs.SameSource (o : FrameRegs) (m m' : Memory) : Prop :=
  ∀ a, o.ReadsAt a → Memory.read m a = Memory.read m' a

section

variable {o : FrameRegs} {m m' : Memory} (h : o.SameSource m m')

include h

/-- The U probes are in RD (41_repack.md R124, R128). -/
theorem FrameRegs.SameSource.uSuspect_eq : o.uSuspect m = o.uSuspect m' := by
  rw [Bool.eq_iff_iff, o.uSuspect_iff, o.uSuspect_iff]
  refine and_congr_right fun hPos => and_congr_right fun hNull => forall₂_congr fun off hOff => ?_
  rw [h _ (.inr (.inl ⟨hPos, hNull, off, hOff, rfl⟩))]

/-- The V probes are in RD (41_repack.md R124, R128). -/
theorem FrameRegs.SameSource.vSuspect_eq : o.vSuspect m = o.vSuspect m' := by
  rw [Bool.eq_iff_iff, o.vSuspect_iff, o.vSuspect_iff]
  refine and_congr_right fun hPos => and_congr_right fun h4 => and_congr_right fun h5 =>
    and_congr_right fun hNull => forall₂_congr fun off hOff => ?_
  have hPlanar : semiplanar o.fmt = false := (semiplanar_eq_false_iff _).mpr ⟨h4, h5⟩
  rw [h _ (.inr (.inr (.inl ⟨hPos, hNull, hPlanar, off, hOff, rfl⟩)))]

/-- REPACK_RESULT reads the probes alone (41_repack.md R136). -/
theorem FrameRegs.SameSource.repackResultOf_eq : repackResultOf o m = repackResultOf o m' := by
  rw [repackResultOf, repackResultOf, h.uSuspect_eq, h.vSuspect_eq]

theorem FrameRegs.SameSource.fill_eq : o.fill m = o.fill m' :=
  congrArg RepackResult.chromaFilled h.repackResultOf_eq

/-- The luma copy reads RD (41_repack.md R125). -/
theorem FrameRegs.SameSource.lumaByte_eq {r c : Nat} (hr : r < o.height.toNat) (hc : c < o.width.toNat) :
    lumaByte m o r c = lumaByte m' o r c := by
  unfold lumaByte
  split
  · rfl
  · exact h _ (.inl ⟨‹_›, r, c, hr, hc, rfl⟩)

/-- A copy that is not replaced by the fill reads RD: the planes it needs are not null (41_repack.md R129 to R133). -/
theorem FrameRegs.SameSource.chromaOf_eq (hFill : o.fill m = false) {r c : Nat} (hr : r < o.uvHeight)
    (hc : c < o.uvWidth) :
    (chromaOf m o).u r c = (chromaOf m' o).u r c ∧ (chromaOf m o).v r c = (chromaOf m' o).v r c := by
  have hPos : 0 < o.uvSize := Nat.zero_lt_of_lt (chroma_offset_lt hr hc)
  obtain ⟨hP1, hP2, hSup⟩ := FrameRegs.planes_of_not_filled hFill
  have hShared : semiplanar o.fmt = true → ∀ j, j < 2 * o.uvWidth →
      Memory.read m (o.p1Addr.toNat + r * o.p1Stride.toNat + j) =
        Memory.read m' (o.p1Addr.toNat + r * o.p1Stride.toNat + j) :=
    fun hSemi j hj => h _ (.inr (.inr (.inr (.inr (.inr ⟨hPos, hSemi, hP1, r, j, hr, hj, rfl⟩)))))
  cases hClass : fmtClass o.fmt with
  | p420 =>
    have hPlane2 := hP2 (by simp only [semiplanar, hClass])
    have hReads : ∀ a, _ → o.ReadsAt a :=
      fun a ha => .inr (.inr (.inr (.inl ⟨hPos, hClass, r, c, hr, hc, ha⟩)))
    simp only [chromaOf, hClass, chromaP420]
    exact ⟨h _ (hReads _ (.inl ⟨hP1, rfl⟩)), h _ (hReads _ (.inr ⟨hPlane2, rfl⟩))⟩
  | p422 =>
    have hPlane2 := hP2 (by simp only [semiplanar, hClass])
    have hReads : ∀ a, _ → o.ReadsAt a :=
      fun a ha => .inr (.inr (.inr (.inr (.inl ⟨hPos, hClass, r, c, hr, hc, ha⟩))))
    simp only [chromaOf, hClass, chromaP422]
    exact ⟨h _ (hReads _ (.inl ⟨hP1, rfl⟩)), h _ (hReads _ (.inr ⟨hPlane2, rfl⟩))⟩
  | nvU =>
    have hRow := hShared (by simp only [semiplanar, hClass])
    simp only [chromaOf, hClass, chromaNvU]
    exact ⟨hRow (2 * c) (by omega), hRow (2 * c + 1) (by omega)⟩
  | nvV =>
    have hRow := hShared (by simp only [semiplanar, hClass])
    simp only [chromaOf, hClass, chromaNvV]
    exact ⟨hRow (2 * c + 1) (by omega), hRow (2 * c) (by omega)⟩
  | other => simp [supported, hClass] at hSup

/-- Equal source bytes give equal buffers: byte by byte in the luma region, then in a filled or a copied chroma region
(41_repack.md R139). -/
theorem FrameRegs.SameSource.packedMemory_eq {k : Nat} (hk : k < o.bufLen) :
    Memory.read (packedMemory (chromaOf m o) o m) (o.dstAddr.toNat + k) =
      Memory.read (packedMemory (chromaOf m' o) o m') (o.dstAddr.toNat + k) := by
  have hL : o.bufLen = o.ySize + 2 * o.uvSize := rfl
  have hRegion : k < o.ySize ∨ ∃ j, j < 2 * o.uvSize ∧ k = o.ySize + j := by
    rcases Nat.lt_or_ge k o.ySize with hLuma | hChroma
    · exact .inl hLuma
    · exact .inr ⟨k - o.ySize, by omega, by omega⟩
  rcases hRegion with hLuma | ⟨j, hj, rfl⟩
  · obtain ⟨r, c, hr, hc, rfl⟩ := exists_row_col hLuma
    rw [← Nat.add_assoc, packedMemory_luma_at _ _ _ hr hc, packedMemory_luma_at _ _ _ hr hc, h.lumaByte_eq hr hc]
  rw [← Nat.add_assoc]
  cases hFill : o.fill m with
  | true => rw [packedMemory_fill_at _ _ _ hFill hj, packedMemory_fill_at _ _ _ (h.fill_eq ▸ hFill) hj]
  | false =>
    have hFill' : o.fill m' = false := h.fill_eq ▸ hFill
    rcases Nat.lt_or_ge j o.uvSize with hU | hV
    · obtain ⟨r, c, hr, hc, rfl⟩ := exists_row_col hU
      rw [← Nat.add_assoc, packedMemory_u_at _ _ _ hFill hr hc, packedMemory_u_at _ _ _ hFill' hr hc,
        (h.chromaOf_eq hFill hr hc).1]
    · obtain ⟨i, rfl⟩ := Nat.exists_eq_add_of_le hV
      obtain ⟨r, c, hr, hc, rfl⟩ := exists_row_col (show i < o.uvSize by omega)
      rw [← Nat.add_assoc, ← Nat.add_assoc, packedMemory_v_at _ _ _ hFill hr hc,
        packedMemory_v_at _ _ _ hFill' hr hc, (h.chromaOf_eq hFill hr hc).2]

end

/-- Settles O47: both states have the record of `exec_repack_of_ready`, and the snapshot fixes the rest. -/
theorem repackIsPure : Obligations.RepackIsPure := by
  intro s s' o hBusy hBusy' hReady hReady' hSame
  have hSource : o.SameSource s.mem s'.mem := hSame
  exact ⟨_, _, exec_repack_of_ready hBusy hReady (.inl rfl), exec_repack_of_ready hBusy' hReady' (.inl rfl), rfl,
    hSource.repackResultOf_eq, fun _ hk => hSource.packedMemory_eq hk⟩

end Sys2Proof.Machine
end

section
/-! SUPPORT. One nibble on a channel, and lanes of one nibble repeated (42_adpcm.md R160, R161, R169). -/

namespace Sys2Proof.Machine

variable {c : Channel}

/-- The step table rises strictly (42_adpcm.md R160). -/
theorem stepTable_strictMono {i : Nat} (h : i < 88) : stepTable.getD i 0 < stepTable.getD (i + 1) 0 := by
  have hFin : ∀ i : Fin 88, stepTable.getD i 0 < stepTable.getD (i + 1) 0 := by decide +kernel
  exact hFin ⟨i, h⟩

/-- `diff` as the sum of quotients of the rule (42_adpcm.md R161). -/
theorem nibbleDiff_eq (step : Nat) (n : BitVec 4) :
    nibbleDiff step n = step / 8 + (if n.getLsbD 2 then step else 0) + (if n.getLsbD 1 then step / 2 else 0) +
      (if n.getLsbD 0 then step / 4 else 0) := by
  simp [nibbleDiff, Nat.shiftRight_eq_div_pow]

/-- `diff` is largest where all three bits of the nibble are set. -/
theorem nibbleDiff_le (step : Nat) (n : BitVec 4) : nibbleDiff step n ≤ step / 8 + step + step / 2 + step / 4 := by
  rw [nibbleDiff_eq]
  split_ifs <;> omega

/-- INDEX_TABLE in closed form: -1 for a small magnitude, else 2, 4, 6, 8 (42_adpcm.md R160). -/
theorem indexDelta_eq : ∀ n : BitVec 4,
    indexDelta n = if n.getLsbD 2 then 2 * ((n.toNat % 4 : Nat) : Int) + 2 else -1 := by decide

/-- Settles O48: the laws of the channel step, with `diff` and INDEX_TABLE in the rule's own terms. -/
theorem channelStepIsAdpcmStep : Obligations.ChannelStepIsAdpcmStep := by
  refine ⟨⟨rfl, rfl, rfl, fun i hi => stepTable_strictMono hi⟩, fun c n hIdx => ?_⟩
  obtain ⟨hSize, -, hMax⟩ := stepSize_bounds c.idx.toNat hIdx
  have hDiff := nibbleDiff_le (stepSize c.idx.toNat) n
  intro step diff
  have hRule : nibbleDiff (stepSize c.idx.toNat) n = diff := by rw [nibbleDiff_eq, hSize]
  refine ⟨?_, ?_, ?_⟩
  · rw [Channel.step_pred, hRule]
  · rw [Channel.step_idx, indexDelta_eq]
  · omega

/-- Nibble 0xF subtracts a `diff` of at least 7, down to -32768 (42_adpcm.md R169). -/
theorem Channel.step_allOnes_pred (h : c.idx.toNat ≤ 88) :
    ∃ diff : Nat, 7 ≤ diff ∧ (c.step 0xF#4).pred.toInt = max (c.pred.toInt - diff) (-32768) := by
  obtain ⟨-, hMin, -⟩ := stepSize_bounds c.idx.toNat h
  have hDiff : nibbleDiff (stepSize c.idx.toNat) 0xF#4 = stepSize c.idx.toNat / 8 + stepSize c.idx.toNat +
      stepSize c.idx.toNat / 2 + stepSize c.idx.toNat / 4 := by simp [nibbleDiff_eq]
  have hPred := Channel.step_pred c 0xF#4
  have hHigh := BitVec.toInt_lt (x := c.pred)
  rw [if_pos (by decide)] at hPred
  exact ⟨nibbleDiff (stepSize c.idx.toNat) 0xF#4, by omega, by omega⟩

/-- Nibble 0x0 adds an eighth of the step size, up to 32767 (42_adpcm.md R169). -/
theorem Channel.step_zero_pred (c : Channel) :
    (c.step 0#4).pred.toInt = min (c.pred.toInt + (stepSize c.idx.toNat / 8 : Nat)) 32767 := by
  have hDiff : nibbleDiff (stepSize c.idx.toNat) 0#4 = stepSize c.idx.toNat / 8 := by simp [nibbleDiff_eq]
  have hLow := BitVec.le_toInt c.pred
  rw [Channel.step_pred, if_neg (by decide), hDiff]
  omega

/-- Nibble 0x0 lowers the index by 1 down to 0 (42_adpcm.md R169). -/
theorem Channel.step_zero_idx (h : c.idx.toNat ≤ 88) : (c.step 0#4).idx.toNat = c.idx.toNat - 1 := by
  have hIdx := Channel.step_idx c 0#4
  rw [show indexDelta 0#4 = -1 by decide] at hIdx
  omega

/-- Two channels are equal when predictor and step index are, read as numbers. -/
theorem Channel.eq_of_values {c d : Channel} (hPred : c.pred.toInt = d.pred.toInt) (hIdx : c.idx.toNat = d.idx.toNat) :
    c = d := by
  cases c
  cases d
  exact (Channel.mk.injEq ..).mpr ⟨BitVec.eq_of_toInt_eq hPred, BitVec.eq_of_toNat_eq hIdx⟩

/-- Nibble 0x0 does nothing at index 0: an eighth of the smallest step size is 0 (42_adpcm.md R169). -/
theorem Channel.step_zero_of_idx_zero (h : c.idx = 0#7) : c.step 0#4 = c := by
  have hHigh := BitVec.toInt_lt (x := c.pred)
  refine Channel.eq_of_values ?_ ?_
  · rw [Channel.step_zero_pred, h, show stepSize (0#7).toNat / 8 = 0 by decide]
    omega
  · rw [Channel.step_zero_idx (by simp [h]), h]
    rfl

theorem laneConstant_succ (nibble : BitVec 4) (c : Channel) (n : Nat) :
    laneConstant nibble c (n + 1) = laneConstant nibble (c.step nibble) n := rfl

/-- At index 0 a lane of 0x0 nibbles stays where it is (42_adpcm.md R169). -/
theorem laneConstant_zero_of_idx_zero (h : c.idx = 0#7) (n : Nat) : laneConstant 0#4 c n = c := by
  induction n with
  | zero => rfl
  | succ n ih => rw [laneConstant_succ, Channel.step_zero_of_idx_zero h, ih]

/-- A lane of 0xF nibbles, at least as many as the predictor is above -32768, ends at -32768 (42_adpcm.md R169). -/
theorem laneConstant_allOnes_pred {n : Nat} (hIdx : c.idx.toNat ≤ 88) (hEnough : c.pred.toInt ≤ n - 32768) :
    (laneConstant 0xF#4 c n).pred.toInt = -32768 := by
  induction n generalizing c with
  | zero =>
    have hLow := BitVec.le_toInt c.pred
    change c.pred.toInt = _
    omega
  | succ n ih =>
    obtain ⟨diff, hDiff, hPred⟩ := Channel.step_allOnes_pred hIdx
    rw [laneConstant_succ]
    exact ih (Channel.step_idx_le _ _) (by omega)

/-- Settles O55: each nibble's effect on a channel, and the two lanes by induction on their length. -/
theorem constantNibblesBehaveAsStated : Obligations.ConstantNibblesBehaveAsStated := by
  refine ⟨fun c hIdx => ?_, fun c hIdx => ⟨?_, Channel.step_zero_idx hIdx⟩,
    fun c n hIdx => laneConstant_zero_of_idx_zero hIdx n, fun c n hIdx hn => laneConstant_allOnes_pred hIdx ?_⟩
  · obtain ⟨diff, hDiff, hPred⟩ := Channel.step_allOnes_pred hIdx
    have hLow := BitVec.le_toInt c.pred
    have hNext := Channel.step_idx c 0xF#4
    rw [show indexDelta 0xF#4 = 8 by decide] at hNext
    exact ⟨by omega, by omega, by omega⟩
  · have hHigh := BitVec.toInt_lt (x := c.pred)
    rw [Channel.step_zero_pred]
    omega
  · have hHigh := BitVec.toInt_lt (x := c.pred)
    omega

end Sys2Proof.Machine
end

section
/-! SUPPORT. A command whose footprint is empty completes whatever the platform and the host do (42_adpcm.md R165,
R166). -/

namespace Sys2Proof.Machine

variable {s : State} {c : Command}

/-- A draw over spans that hold no address draws nothing. -/
theorem drawSpans_of_empty {l : List Span} (h : ∀ a, ¬ Covers l a) (s : State) : drawSpans l s = s := by
  induction l with
  | nil => rfl
  | cons sp l ih =>
    have hSpan : sp.len = 0 := by
      have hBase : ¬ sp.contains sp.base = true := fun hBase => h _ ⟨sp, .head _, hBase⟩
      rw [Span.contains_iff] at hBase
      omega
    have hDraw : drawSpan sp s = s := by simp [drawSpan, hSpan, Memory.writeRow]
    change drawSpans l (drawSpan sp s) = s
    rw [hDraw, ih fun a ⟨q, hq, ha⟩ => h a ⟨q, .tail _ hq, ha⟩]

/-- With an empty footprint no check fails and no fault's condition holds, so the body runs and the command completes; a
race there may have been has nothing to make free. -/
theorem runCommand_of_no_footprint {body : State → State} (hEmpty : ∀ a, ¬ c.InFootprint a)
    (hForget : forgetReads c (body s) = body s) : runCommand c body s = .next (completeCommand (body s)) := by
  rcases runCommand_cases c body s with ⟨hOver, -⟩ | ⟨-, hAdmit, -⟩ | ⟨-, -, -, hRun⟩ | ⟨-, hRun⟩
  · obtain ⟨a, ha, -⟩ := (Command.overflows_iff c).mp hOver
    exact absurd ha (hEmpty a)
  · rw [(Command.admittedBy_iff c _).mpr fun a ha => absurd ha (hEmpty a)] at hAdmit
    cases hAdmit
  · have hSpans : ∀ a, ¬ Covers (c.sideEffectSpans s.platform) a := fun a ha =>
      hEmpty a ((Command.sideEffectSpans_iff c _ a).mp ha).1
    have hSide : c.touchesSideEffects s.platform = false :=
      (Command.touchesSideEffects_eq_false_iff c _).mpr fun a ha => absurd ha (hEmpty a)
    have hOverlap : c.overlaps = false := (Command.overlaps_eq_false_iff c).mpr fun a ha => hEmpty a (.inl ha.1)
    have hFaults : c.faultsOn s.platform = [] := by simp [Command.faultsOn, hSide, hOverlap]
    rw [hRun, faultedBody, hForget, drawSpans_of_empty hSpans, hFaults]
    rfl
  · exact hRun

/-- Settles O52: an empty input has an empty footprint, and the loop takes no turn. -/
theorem emptyDecodeChangesNothing : Obligations.EmptyDecodeChangesNothing := by
  intro s o hBusy hLen
  have hEmpty : ∀ a, ¬ (Command.adpcmDecode o).InFootprint a := by
    simp [Command.InFootprint, Command.WritesAt, Command.ReadsAt, hLen]
  have hBody : commandBody (.adpcmDecode o) s = s := by simp [commandBody, decodeBody, decodeLoop, hLen]
  have hRun : exec .adpcmDecode s = .next (completeCommand (commandBody (.adpcmDecode o) s)) :=
    (exec_commandInstr hBusy).trans (runCommand_of_no_footprint hEmpty (if_pos hLen))
  rw [hRun, hBody]
  rfl

/-- Settles O53: ADPCM_RESET has no footprint, and its body is the two channels. -/
theorem adpcmResetClearsBothChannels : Obligations.AdpcmResetClearsBothChannels := by
  intro s hBusy
  have hEmpty : ∀ a, ¬ Command.adpcmReset.InFootprint a := by
    simp [Command.InFootprint, Command.WritesAt, Command.ReadsAt]
  exact (exec_commandInstr hBusy).trans (runCommand_of_no_footprint hEmpty rfl)

end Sys2Proof.Machine
end

section
/-! SUPPORT. ADPCM_DECODE as the decoding loop, and the loop cut in two (42_adpcm.md R163, R164, R167). -/

namespace Sys2Proof.Machine

variable {s t : State} {o : AudioRegs}

/-- A ready ADPCM_DECODE runs its loop and completes (42_adpcm.md R163). -/
theorem exec_adpcmDecode_of_ready (hBusy : s.engine = .busy (.adpcmDecode o))
    (hReady : (Command.adpcmDecode o).Ready s) : exec .adpcmDecode s = .next (completeCommand (decodeBody o s)) :=
  (exec_commandInstr hBusy).trans (runCommand_ready hReady _)

/-- The body of ADPCM_DECODE as one record: the channels are the folds of their lanes (42_adpcm.md R164). -/
theorem decodeBody_eq (o : AudioRegs) (s : State) : decodeBody o s = { s with
    chL := laneAfter s.mem o.srcAddr.toNat highNibble s.chL o.srcLen.toNat
    chR := laneAfter s.mem o.srcAddr.toNat lowNibble s.chR o.srcLen.toNat
    mem := (decodeBody o s).mem } := by
  obtain ⟨hLeft, hRight⟩ :=
    decodeLoop_lanes s.mem o.srcAddr.toNat o.outAddr.toNat ⟨s.chL, s.chR, s.mem⟩ o.srcLen.toNat
  simp only [decodeBody, hLeft, hRight]

/-- Settles O49: the record of the body, completed. -/
theorem decodeFoldsEachLane : Obligations.DecodeFoldsEachLane := by
  intro s o hBusy hReady
  refine ⟨(decodeBody o s).mem, ?_⟩
  have hUnraced : (decodeBody o s).raced = false := hReady.unraced
  rw [exec_adpcmDecode_of_ready hBusy hReady, completeCommand_unraced hUnraced, decodeBody_eq]

/-- The loop over `n1 + n2` bytes is the loop over `n1` and then the loop over the next `n2` (42_adpcm.md R164). -/
theorem decodeLoop_add (src : Memory) (a out : Nat) (d : Decoding) (n1 n2 : Nat) :
    decodeLoop src a out d (n1 + n2) = decodeLoop src (a + n1) (out + 8 * n1) (decodeLoop src a out d n1) n2 := by
  induction n2 with
  | zero => rfl
  | succ n2 ih => rw [← Nat.add_assoc, decodeLoop, decodeLoop, ih, Nat.mul_add, Nat.add_assoc, Nat.add_assoc]

/-- The loop depends on the source bytes it reads alone. -/
theorem decodeLoop_congr {src src' : Memory} {a n : Nat} (out : Nat) (d : Decoding)
    (h : ∀ j, j < n → Memory.read src (a + j) = Memory.read src' (a + j)) :
    decodeLoop src a out d n = decodeLoop src' a out d n := by
  induction n with
  | zero => rfl
  | succ n ih => rw [decodeLoop, decodeLoop, ih fun j hj => h j (by omega), h n (by omega)]

/-- A command is ready where one with a larger write set and a larger read set is. -/
theorem Command.Ready.mono {c c' : Command} (h : c.Ready s) (hWrites : ∀ a, c'.WritesAt a → c.WritesAt a)
    (hReads : ∀ a, c'.ReadsAt a → c.ReadsAt a) (hPlatform : t.platform = s.platform) (hRaced : t.raced = false) :
    c'.Ready t := by
  rw [Command.ready_iff] at h ⊢
  obtain ⟨hInSpace, hAdmitted, hIdempotent, hDisjoint, -⟩ := h
  have hFootprint : ∀ a, c'.InFootprint a → c.InFootprint a := fun a => Or.imp (hWrites a) (hReads a)
  rw [hPlatform]
  exact ⟨fun a ha => hInSpace a (hFootprint a ha), fun a ha => hAdmitted a (hFootprint a ha),
    fun a ha => hIdempotent a (hFootprint a ha), fun a ha => hDisjoint a ⟨hWrites a ha.1, hReads a ha.2⟩, hRaced⟩

/-- `p` is the part of the decode `o` from byte `k` on: its bytes lie in those of `o`, its pairs in the places of theirs
(42_adpcm.md R164, R167). -/
structure AudioRegs.PartAt (p o : AudioRegs) (k : Nat) : Prop where
  src : p.srcAddr.toNat = o.srcAddr.toNat + k
  out : p.outAddr.toNat = o.outAddr.toNat + 8 * k
  len : k + p.srcLen.toNat ≤ o.srcLen.toNat

/-- A part of a ready decode is ready. -/
theorem AudioRegs.PartAt.ready {p : AudioRegs} {k : Nat} (h : p.PartAt o k) (hReady : (Command.adpcmDecode o).Ready s)
    (hPlatform : t.platform = s.platform) (hRaced : t.raced = false) : (Command.adpcmDecode p).Ready t := by
  obtain ⟨hSrc, hOut, hLen⟩ := h
  refine hReady.mono ?_ ?_ hPlatform hRaced
  · rintro a ⟨j, hj, rfl⟩
    exact ⟨8 * k + j, by omega, by omega⟩
  · rintro a ⟨j, hj, rfl⟩
    exact ⟨k + j, by omega, by omega⟩

/-- A part of a ready decode leaves the source bytes of the whole: none of them is in the write set (20_memory.md R73). -/
theorem AudioRegs.PartAt.read_source {p : AudioRegs} {k j : Nat} (h : p.PartAt o k)
    (hReady : (Command.adpcmDecode o).Ready s) (hj : j < o.srcLen.toNat) :
    Memory.read (decodeBody p s).mem (o.srcAddr.toNat + j) = Memory.read s.mem (o.srcAddr.toNat + j) := by
  obtain ⟨-, -, -, hDisjoint, -⟩ := (Command.ready_iff _ _).mp hReady
  obtain ⟨-, hOut, hLen⟩ := h
  refine decodeLoop_outside _ _ _ _ _ ?_
  by_contra hIn
  have hWrites : (Command.adpcmDecode o).WritesAt (o.srcAddr.toNat + j) :=
    ⟨o.srcAddr.toNat + j - o.outAddr.toNat, by omega, by omega⟩
  exact hDisjoint _ ⟨hWrites, j, hj, rfl⟩

/-- Settles O51: the loop is cut in two, and the second loop's source bytes are as the first decode found them. -/
theorem decodeInTwoPartsIsDecodeAtOnce : Obligations.DecodeInTwoPartsIsDecodeAtOnce := by
  intro s o o1 o2 hReady hSrc1 hOut1 hSrc2 hOut2 hLen
  have hPart1 : o1.PartAt o 0 := ⟨by rw [hSrc1]; rfl, by rw [hOut1]; rfl, by omega⟩
  have hPart2 : o2.PartAt o o1.srcLen.toNat := ⟨hSrc2, hOut2, hLen.ge⟩
  refine ⟨_, _, _, exec_adpcmDecode_of_ready rfl (hReady.mono (fun _ => id) (fun _ => id) rfl hReady.unraced),
    exec_adpcmDecode_of_ready rfl (hPart1.ready hReady rfl hReady.unraced),
    exec_adpcmDecode_of_ready rfl (hPart2.ready hReady rfl rfl), ?_⟩
  have hLoop : decodeLoop s.mem o.srcAddr.toNat o.outAddr.toNat ⟨s.chL, s.chR, s.mem⟩ o.srcLen.toNat =
      decodeLoop (decodeBody o1 s).mem o2.srcAddr.toNat o2.outAddr.toNat
        ⟨(decodeBody o1 s).chL, (decodeBody o1 s).chR, (decodeBody o1 s).mem⟩ o2.srcLen.toNat := by
    rw [hLen, decodeLoop_add, hSrc2, hOut2, ← hSrc1, ← hOut1]
    refine decodeLoop_congr _ _ fun j hj => ?_
    rw [hSrc1, Nat.add_assoc, hPart1.read_source hReady (by omega)]
  exact ⟨congrArg Decoding.left hLoop.symm, congrArg Decoding.right hLoop.symm,
    fun a => congrArg (fun d => Memory.read d.mem a) hLoop.symm⟩

end Sys2Proof.Machine
end

section
/-! SUPPORT. The fault record and the priority of ERR_BUSY (60_exceptions.md R202, R203). -/

namespace Sys2Proof.Machine

variable {s t : State} {f : Fault}

/-- Settles O28: `execIllegalOpcode` looks at BUSY before it rejects the opcode. -/
theorem busyCheckComesBeforeTheOpcode : Obligations.BusyCheckComesBeforeTheOpcode := by
  intro s op hBusy hOp
  have hNone : legalOpcode op = none := (legalOpcode_eq_none_iff op).mpr hOp
  simp [exec, execIllegalOpcode, hNone, hBusy, raiseErrBusy]

/-! ### No step ends with a fault -/

/-- ENGINE_COMPLETE always answers a next state (40_host_interface.md R108). -/
theorem runCommand_ne_fault (c : Command) (body : State → State) : runCommand c body s ≠ .fault f := by
  rcases runCommand_cases c body s with ⟨-, hRun⟩ | ⟨-, -, hRun⟩ | ⟨-, -, -, hRun⟩ | ⟨-, hRun⟩ <;> rw [hRun] <;> nofun

/-- The engine's turn ends with no fault, whatever is in flight. -/
theorem engineTurn_ne_fault : engineTurn s ≠ .fault f := by
  cases hEngine : s.engine with
  | idle => rw [engineTurn_of_idle hEngine]; nofun
  | busy c => rw [engineTurn_of_busy hEngine, exec_commandInstr hEngine]; exact runCommand_ne_fault c _

/-- A host read or write of a register ends with no fault (40_host_interface.md R100, R101). -/
theorem exec_register_ne_fault {i : Instr} (h : (∃ k, i = .mmioRead k) ∨ ∃ k v, i = .mmioWrite k v) :
    exec i s ≠ .fault f := by
  rcases h with ⟨k, rfl⟩ | ⟨k, v, rfl⟩ <;> nofun

/-- No event's move ends with a fault: what has no meaning is refused by name, and the rest answers a next state. -/
theorem eventTurn_ne_fault (e : Event) : eventTurn e s ≠ .fault f := by
  cases e with
  | transactions bytes =>
    rw [eventTurn, transactionTurn]
    split
    · exact exec_register_ne_fault (decodeHostBus_instr ‹_›)
    · nofun
  | access a =>
    rw [eventTurn, accessTurn]
    split
    · exact exec_register_ne_fault (accessMeaning_instr ‹_›)
    · nofun
  | memRead a =>
    rw [eventTurn, hostMemRead]
    split
    · nofun
    · split <;> nofun
  | memWrite a b =>
    rw [eventTurn, hostMemWrite]
    split
    · nofun
    · split <;> nofun
  | reset => nofun
  | engine => exact engineTurn_ne_fault

/-- No step ends the run with a fault (60_exceptions.md R202). -/
theorem step_ne_fault : step s ≠ .fault f := by
  unfold step
  split
  · exact engineTurn_ne_fault
  · exact eventTurn_ne_fault _

/-! ### The fault record only grows -/

/-- A host read of a register records no fault and clears none (40_host_interface.md R100). -/
@[simp] theorem hostRead_faults (r : Reg) (s : State) : (hostRead r s).faults = s.faults := by
  rcases hostRead_cases r s with ⟨-, -, hRead⟩ | ⟨-, -, hRead⟩ | hRead <;> rw [hRead] <;> rfl

/-- A host write of a register records no fault and clears none, STATUS included (40_host_interface.md R101 to R103). -/
@[simp] theorem hostWrite_faults (r : Reg) (v : Word) (s : State) : (hostWrite r v s).faults = s.faults := by
  rcases hostWrite_cases r v s with ⟨-, hWrite⟩ | ⟨-, -, hWrite⟩ | ⟨-, hWrite⟩ <;> rw [hWrite]
  · exact raiseErrBusy_faults s
  · rcases commandWrite_cases v s with hCmd | ⟨op, hCmd⟩ <;> rw [hCmd]
    · exact raiseErrCmd_faults s
    · exact acceptCommand_faults s _
  · obtain ⟨-, -, -, -, -, -, -, hFaults, -⟩ := writeReg_keeps r v s
    exact hFaults

/-- A reset keeps the record, where the registers take their reset values (70_reset_and_hazards.md R220). -/
@[simp] theorem assertReset_faults (s : State) : (assertReset s).faults = s.faults := rfl

/-- No command's body touches the record: its faults are recorded around it. -/
@[simp] theorem commandBody_faults (c : Command) (s : State) : (commandBody c s).faults = s.faults := by
  obtain ⟨-, -, -, -, -, -, -, -, -, -, -, -, hFaults, -⟩ := commandBody_keeps c s
  exact hFaults

/-- A command that meets a fault records every fault whose condition holds before the record its body leaves. -/
@[simp] theorem faultedBody_faults (c : Command) (body : State → State) (s : State) :
    (faultedBody c body s).faults = c.faultsOn s.platform ++ (body s).faults := by
  obtain ⟨m, d, rr, l, r, hState, -⟩ := faultedBody_spec c body s
  rw [hState]

/-- A racing host write records HOST_RACE (20_memory.md R69). -/
@[simp] theorem raceWrite_faults (a : Nat) (b : Byte) (s : State) :
    (raceWrite a b s).faults = .hostRace :: s.faults := by
  rw [raceWrite_eq]

/-- The engine's step clears no fault, in any of its outcomes: ERR_ADDR, stuck, faulted and ready. -/
theorem runCommand_extends_faults {c : Command} (h : runCommand c (commandBody c) s = .next t) :
    s.faults <:+ t.faults := by
  rcases runCommand_cases c (commandBody c) s with ⟨-, hRun⟩ | ⟨-, -, hRun⟩ | ⟨-, -, -, hRun⟩ | ⟨-, hRun⟩ <;>
    cases hRun.symm.trans h
  · rw [completeCommand_faults, raiseErrAddr_faults]
  · exact List.suffix_rfl
  · rw [completeCommand_faults, faultedBody_faults, commandBody_faults]
    exact List.suffix_append _ _
  · rw [completeCommand_faults, commandBody_faults]

/-- No step clears a fault: each of the moves that `step_cases` lists keeps the record or adds before it. -/
theorem step_extends_faults (h : step s = .next t) : s.faults <:+ t.faults := by
  rcases step_cases h with ⟨ag, k, -, rfl⟩ | ⟨ag, k, v, -, rfl⟩ | ⟨rest, -, rfl⟩ | ⟨rest, -, -, rfl⟩ |
    ⟨rest, c, -, hBusy, hExec⟩ | ⟨rest, a, rfl | rfl⟩ | ⟨rest, a, b, rfl | rfl⟩
  · rw [hostRead_faults]
  · rw [hostWrite_faults]
  · rw [assertReset_faults]
  · exact List.suffix_rfl
  · rw [exec_commandInstr (s := { s with agenda := rest }) hBusy] at hExec
    exact (runCommand_extends_faults hExec :)
  · rw [drawByte_faults]
  · rw [returnWord_faults]
  · rw [storeByte_faults]
  · rw [raceWrite_faults]
    exact List.suffix_cons _ _

/-- Settles O33: no event's move ends with a fault, and `step_extends_faults` gives the faults a step adds. -/
theorem faultsAreNeverFinalAndNeverCleared : Obligations.FaultsAreNeverFinalAndNeverCleared := by
  refine fun s => ⟨fun f => step_ne_fault, fun t hStep => ?_⟩
  obtain ⟨new, hFaults⟩ := step_extends_faults hStep
  exact ⟨new, hFaults.symm⟩

end Sys2Proof.Machine
end

section
/-! SUPPORT. Reset and power-on: the register file, the aborted write set and the rest of memory
(70_reset_and_hazards.md R220 to R224). -/

namespace Sys2Proof.Machine

variable {s : State} {c : Command} {rest : List Event}

/-- When the platform's reset is the next move, the step is that reset (70_reset_and_hazards.md R220). -/
theorem step_of_reset (h : s.agenda = .reset :: rest) : step s = .next (assertReset { s with agenda := rest }) := by
  simp only [step, h, eventTurn]

/-! ### What a reset leaves of memory -/

/-- A reset draws the bytes of the aborted writes and leaves the rest of memory (70_reset_and_hazards.md R222, R223). -/
theorem assertReset_mem (s : State) : (assertReset s).mem =
    Memory.writeRow s.mem (abortedWrites s).base (abortedWrites s).len fun k => Config.freeByte (s.draws + k) := rfl

/-- A reset takes one draw for each byte of the aborted writes (70_reset_and_hazards.md R222). -/
theorem assertReset_draws (s : State) : (assertReset s).draws = s.draws + (abortedWrites s).len := rfl

/-- An idle engine has nothing to abort. -/
theorem abortedWrites_of_idle (h : s.engine = .idle) : abortedWrites s = ⟨0, 0⟩ := by
  simp only [abortedWrites, h]

/-- The aborted writes start where the write set does and end with it or at the top of memory
(70_reset_and_hazards.md R222). -/
theorem abortedWrites_of_busy (h : s.engine = .busy c) :
    abortedWrites s = ⟨c.writeSet.base, min c.writeSet.len (2 ^ 64 - c.writeSet.base)⟩ := by
  simp only [abortedWrites, h, Span.inter, memorySpace, Span.mk.injEq]
  omega

/-- A reset while IDLE leaves memory (70_reset_and_hazards.md R223). -/
theorem assertReset_mem_of_idle (h : s.engine = .idle) : (assertReset s).mem = s.mem := by
  rw [assertReset_mem, abortedWrites_of_idle h, Memory.writeRow]

/-- A reset while BUSY leaves every byte that the command in flight does not write (70_reset_and_hazards.md R222, R223). -/
theorem assertReset_read_outside {a : Nat} (h : s.engine = .busy c) (ha : ¬ c.WritesAt a) :
    Memory.read (assertReset s).mem a = Memory.read s.mem a := by
  rw [Command.writesAt_iff, Span.contains_iff] at ha
  rw [assertReset_mem, abortedWrites_of_busy h]
  exact Memory.read_writeRow_outside _ _ (by simp only; omega)

/-- Settles O3: a reset writes the row of the aborted writes, which is empty while IDLE and part of the write set while
BUSY. -/
theorem resetLeavesMemoryButTheAbortedWrites : Obligations.ResetLeavesMemoryButTheAbortedWrites := by
  intro s rest hReset
  exact ⟨_, step_of_reset hReset, assertReset_mem_of_idle (s := { s with agenda := rest }),
    fun c hBusy a => assertReset_read_outside (s := { s with agenda := rest }) hBusy⟩

/-- Settles O4: the aborted writes are the first bytes of the write set, as many as memory has from its base on. -/
theorem resetDrawsTheAbortedWrites : Obligations.ResetDrawsTheAbortedWrites := by
  intro s rest c hReset hBusy
  have hSpan := abortedWrites_of_busy (s := { s with agenda := rest }) hBusy
  refine ⟨_, step_of_reset hReset, ?draws, fun k hk hTop => ?byte⟩
  case draws => rw [assertReset_draws, hSpan]
  case byte =>
    rw [assertReset_mem, hSpan]
    exact Memory.read_writeRow_at _ _ (by simp only; omega)

/-! ### The reset column -/

/-- The reset column: VERSION reads 1 and every other register 0 (10_state.md R24, 70_reset_and_hazards.md R220). -/
theorem regWord_reset (r : Reg) : regWord r State.reset = if r = .version then 1#64 else 0#64 := by
  cases r <;> rfl

/-- A reset at any time leaves the register file of power-on (70_reset_and_hazards.md R220). -/
theorem regWord_assertReset (r : Reg) (s : State) : regWord r (assertReset s) = regWord r State.reset := by
  cases r <;> rfl

/-- Settles O1: a reset leaves the register file of power-on, which is the reset column. -/
theorem resetGivesEveryRegisterItsResetValue : Obligations.ResetGivesEveryRegisterItsResetValue := by
  intro s rest hReset
  exact ⟨_, step_of_reset hReset, fun r => (regWord_assertReset r _).trans (regWord_reset r), rfl, rfl⟩

/-- Settles O2: with no input the step is the engine's turn, and the engine is IDLE. -/
theorem powerOnStateIsTheResetColumn : Obligations.PowerOnStateIsTheResetColumn :=
  ⟨regWord_reset, rfl, rfl, (step_of_no_input rfl).trans (engineTurn_of_idle rfl)⟩

end Sys2Proof.Machine
end

section
/-! SUPPORT. A read of a channel's state while a command may be changing it (70_reset_and_hazards.md R228). -/

namespace Sys2Proof.Machine

/-- While BUSY a host read of CH_L or CH_R is a draw (70_reset_and_hazards.md R228). -/
theorem hostRead_channel_of_busy {r : Reg} {s : State} (hBusy : s.busy = true) (hChannel : r = .chL ∨ r = .chR) :
    hostRead r s = drawWord s := by
  rw [hostRead, if_pos hBusy, if_pos hChannel]

/-- Settles O17: slots 21 and 22 are the channels. -/
theorem channelReadWhileBusyIsADraw : Obligations.ChannelReadWhileBusyIsADraw := by
  intro s k hBusy hSlot
  rw [exec_mmioRead, hostRead_channel_of_busy hBusy ((slotReg_channel k).mpr hSlot), drawWord]

end Sys2Proof.Machine
end
